-- ==== Sys2Proof/Word.lean ====
section
/-! DEFINITION. The widths of the machine: words, bytes, register numbers, and the three-valued condition flags. -/

namespace Sys2Proof

/-- `WORD`: a register, a memory cell, an instruction and an address are 16 bits (00_scope.md R7, R8).
`+`, `~~~` and `&&&` on it are the modulo-65,536 operations of R8. -/
abbrev Word := BitVec 16

/-- A character: a byte in 0 to 255 (00_scope.md R14). -/
abbrev Byte := BitVec 8

/-- `NREG`: the number of a general register, 0 to 7 (00_scope.md R7, 10_state.md R20). -/
abbrev RegIndex := Fin 8

/-- The condition flags COND: exactly one of three states (10_state.md R27). -/
inductive Cond where
  | n
  | z
  | p
deriving DecidableEq, Repr, Inhabited

end Sys2Proof
end

