-- ==== Sys2Proof/Syntax.lean ====
section
/-! DEFINITION. The instructions: one constructor for each row of spec/opcode_table.json. Register fields are register
numbers, every other field keeps the bits the encoding gives it (30_encoding.md R82). -/

namespace Sys2Proof

/-- An instruction, with the operand fields its row names. Bits no field reads are not part of it (30_encoding.md R86). -/
inductive Instr where
  /-- BR `0000nzpooooooooo` (R180) -/
  | br (n z p : Bool) (offset9 : BitVec 9)
  /-- ADD, register form `0001dddsss0xxttt` (R133) -/
  | addReg (dr sr1 sr2 : RegIndex)
  /-- ADD, immediate form `0001dddsss1iiiii` (R134) -/
  | addImm (dr sr1 : RegIndex) (imm5 : BitVec 5)
  /-- LD `0010dddooooooooo` (R153) -/
  | ld (dr : RegIndex) (offset9 : BitVec 9)
  /-- ST `0011sssooooooooo` (R157) -/
  | st (sr : RegIndex) (offset9 : BitVec 9)
  /-- JSR `01001ooooooooooo` (R182) -/
  | jsr (offset11 : BitVec 11)
  /-- JSRR `01000xxbbbxxxxxx` (R183) -/
  | jsrr (baseR : RegIndex)
  /-- AND, register form `0101dddsss0xxttt` (R135) -/
  | andReg (dr sr1 sr2 : RegIndex)
  /-- AND, immediate form `0101dddsss1iiiii` (R136) -/
  | andImm (dr sr1 : RegIndex) (imm5 : BitVec 5)
  /-- LDR `0110dddbbboooooo` (R155) -/
  | ldr (dr baseR : RegIndex) (offset6 : BitVec 6)
  /-- STR `0111sssbbboooooo` (R159) -/
  | str (sr baseR : RegIndex) (offset6 : BitVec 6)
  /-- RTI `1000xxxxxxxxxxxx` (R118) -/
  | rti
  /-- NOT `1001dddsssxxxxxx` (R137) -/
  | not (dr sr : RegIndex)
  /-- LDI `1010dddooooooooo` (R154) -/
  | ldi (dr : RegIndex) (offset9 : BitVec 9)
  /-- STI `1011sssooooooooo` (R158) -/
  | sti (sr : RegIndex) (offset9 : BitVec 9)
  /-- JMP `1100xxxbbbxxxxxx`; JMP R7 is spelled RET (R181) -/
  | jmp (baseR : RegIndex)
  /-- RES `1101xxxxxxxxxxxx` (R119) -/
  | res
  /-- LEA `1110dddooooooooo` (R156) -/
  | lea (dr : RegIndex) (offset9 : BitVec 9)
  /-- The generic TRAP row `1111xxxxvvvvvvvv`: a code that is none of the six service codes (R200, R222) -/
  | trap (trapvect8 : BitVec 8)
  /-- GETC, TRAP code 0x20 (R211) -/
  | getc
  /-- OUT, TRAP code 0x21 (R212) -/
  | out
  /-- PUTS, TRAP code 0x22 (R213) -/
  | puts
  /-- IN, TRAP code 0x23 (R214) -/
  | inp
  /-- PUTSP, TRAP code 0x24 (R215) -/
  | putsp
  /-- HALT, TRAP code 0x25 (R216) -/
  | halt
deriving DecidableEq, Repr

end Sys2Proof
end

