-- ==== Sys2Proof/Decode.lean ====
section
/-! DEFINITION. The decoder, from 16-bit words to instructions, and the encoder back. "No encoding is illegal. Every
16-bit word decodes to exactly one handler" (30_encoding.md R86), so `decode` is total and rejects nothing. The opcode
numbers, bit positions and trap codes are the LC-3's, as the spec supplies them (R81, R82, R88; notes/assumptions/4.md). -/

namespace Sys2Proof

/-- The register number in the three bits of `ir` that begin at bit `lo` (30_encoding.md R82, R85). -/
def regField (ir : Word) (lo : Nat) : RegIndex :=
  (ir.extractLsb' lo 3).toFin

/-- A three-bit register field holding the number `r`. -/
def regBits (r : RegIndex) : BitVec 3 :=
  BitVec.ofFin r

/-- The opcode `ir[15:12]` (30_encoding.md R80, R81). -/
def opcode (ir : Word) : BitVec 4 := ir.extractLsb' 12 4

/-- The row of its own that a trap service code has, none for every other code (30_encoding.md R88). -/
def serviceRow (code : BitVec 8) : Option Instr :=
  match code with
  | 0x20#8 => some .getc
  | 0x21#8 => some .out
  | 0x22#8 => some .puts
  | 0x23#8 => some .inp
  | 0x24#8 => some .putsp
  | 0x25#8 => some .halt
  | _ => none

/-- The row of opcode 0xF that a trap code selects: its service row, which has more mask bits, before the generic TRAP
row (30_encoding.md R90). -/
def decodeTrap (code : BitVec 8) : Instr :=
  (serviceRow code).getD (.trap code)

/-- Decode one instruction word by its opcode, then by `ir[11]` for opcode 0x4, by `ir[5]` for opcodes 0x1 and 0x5, and
by the trap code for 0xF (30_encoding.md R81, R83, R90). -/
def decode (ir : Word) : Instr :=
  let r9 := regField ir 9
  let r6 := regField ir 6
  let r0 := regField ir 0
  let offset9 := ir.extractLsb' 0 9
  match opcode ir with
  | 0x0#4 => .br (ir.getLsbD 11) (ir.getLsbD 10) (ir.getLsbD 9) offset9
  | 0x1#4 => if ir.getLsbD 5 then .addImm r9 r6 (ir.extractLsb' 0 5) else .addReg r9 r6 r0
  | 0x2#4 => .ld r9 offset9
  | 0x3#4 => .st r9 offset9
  | 0x4#4 => if ir.getLsbD 11 then .jsr (ir.extractLsb' 0 11) else .jsrr r6
  | 0x5#4 => if ir.getLsbD 5 then .andImm r9 r6 (ir.extractLsb' 0 5) else .andReg r9 r6 r0
  | 0x6#4 => .ldr r9 r6 (ir.extractLsb' 0 6)
  | 0x7#4 => .str r9 r6 (ir.extractLsb' 0 6)
  | 0x8#4 => .rti
  | 0x9#4 => .not r9 r6
  | 0xA#4 => .ldi r9 offset9
  | 0xB#4 => .sti r9 offset9
  | 0xC#4 => .jmp r6
  | 0xD#4 => .res
  | 0xE#4 => .lea r9 offset9
  | _ => decodeTrap (ir.extractLsb' 0 8)

/-- The word of an instruction (30_encoding.md R83). The bits no field reads are written as the LC-3 assembler writes
them: 111111 for NOT, otherwise 0 (R86, R137; DESIGN CHOICE, notes/assumptions/26.md). -/
def encode : Instr → Word
  | .br n z p offset9 => 0x0#4 ++ BitVec.ofBool n ++ BitVec.ofBool z ++ BitVec.ofBool p ++ offset9
  | .addReg dr sr1 sr2 => 0x1#4 ++ regBits dr ++ regBits sr1 ++ 0b000#3 ++ regBits sr2
  | .addImm dr sr1 imm5 => 0x1#4 ++ regBits dr ++ regBits sr1 ++ 0b1#1 ++ imm5
  | .ld dr offset9 => 0x2#4 ++ regBits dr ++ offset9
  | .st sr offset9 => 0x3#4 ++ regBits sr ++ offset9
  | .jsr offset11 => 0x4#4 ++ 0b1#1 ++ offset11
  | .jsrr baseR => 0x4#4 ++ 0b000#3 ++ regBits baseR ++ 0b000000#6
  | .andReg dr sr1 sr2 => 0x5#4 ++ regBits dr ++ regBits sr1 ++ 0b000#3 ++ regBits sr2
  | .andImm dr sr1 imm5 => 0x5#4 ++ regBits dr ++ regBits sr1 ++ 0b1#1 ++ imm5
  | .ldr dr baseR offset6 => 0x6#4 ++ regBits dr ++ regBits baseR ++ offset6
  | .str sr baseR offset6 => 0x7#4 ++ regBits sr ++ regBits baseR ++ offset6
  | .rti => 0x8000#16
  | .not dr sr => 0x9#4 ++ regBits dr ++ regBits sr ++ 0b111111#6
  | .ldi dr offset9 => 0xA#4 ++ regBits dr ++ offset9
  | .sti sr offset9 => 0xB#4 ++ regBits sr ++ offset9
  | .jmp baseR => 0xC#4 ++ 0b000#3 ++ regBits baseR ++ 0b000000#6
  | .res => 0xD000#16
  | .lea dr offset9 => 0xE#4 ++ regBits dr ++ offset9
  | .trap code => 0xF0#8 ++ code
  | .getc => 0xF020#16
  | .out => 0xF021#16
  | .puts => 0xF022#16
  | .inp => 0xF023#16
  | .putsp => 0xF024#16
  | .halt => 0xF025#16

/-- The mask and the match of an instruction's row of the opcode table (30_encoding.md R83, R90). -/
def tableRow : Instr → Word × Word
  | .br _ _ _ _ => (0xF000#16, 0x0000#16)
  | .addReg _ _ _ => (0xF020#16, 0x1000#16)
  | .addImm _ _ _ => (0xF020#16, 0x1020#16)
  | .ld _ _ => (0xF000#16, 0x2000#16)
  | .st _ _ => (0xF000#16, 0x3000#16)
  | .jsr _ => (0xF800#16, 0x4800#16)
  | .jsrr _ => (0xF800#16, 0x4000#16)
  | .andReg _ _ _ => (0xF020#16, 0x5000#16)
  | .andImm _ _ _ => (0xF020#16, 0x5020#16)
  | .ldr _ _ _ => (0xF000#16, 0x6000#16)
  | .str _ _ _ => (0xF000#16, 0x7000#16)
  | .rti => (0xF000#16, 0x8000#16)
  | .not _ _ => (0xF000#16, 0x9000#16)
  | .ldi _ _ => (0xF000#16, 0xA000#16)
  | .sti _ _ => (0xF000#16, 0xB000#16)
  | .jmp _ => (0xF000#16, 0xC000#16)
  | .res => (0xF000#16, 0xD000#16)
  | .lea _ _ => (0xF000#16, 0xE000#16)
  | .trap _ => (0xF000#16, 0xF000#16)
  | .getc => (0xF0FF#16, 0xF020#16)
  | .out => (0xF0FF#16, 0xF021#16)
  | .puts => (0xF0FF#16, 0xF022#16)
  | .inp => (0xF0FF#16, 0xF023#16)
  | .putsp => (0xF0FF#16, 0xF024#16)
  | .halt => (0xF0FF#16, 0xF025#16)

/-- What the decoder reads from an instruction whose low `nbits` bits are those of `w` and whose other bits are 0. An
instruction is one 16-bit word and nothing longer (30_encoding.md R80); a longer one is no instruction. -/
def decodeTableWord (nbits w : Nat) : Option Instr :=
  if nbits ≤ 16 then some (decode (BitVec.ofNat 16 (w % 2 ^ nbits))) else none

end Sys2Proof
end

