-- ==== Sys2Proof/Config.lean ====
section
/-! DEFINITION. The implementation parameters of 00_scope.md R7, and the free values the spec leaves open. -/

namespace Sys2Proof

/-- One answer of the character-input source (44_trap.md R225, R226). A blocking request is never answered `noKey`. -/
inductive InputAnswer where
  | key (k : Byte)
  | noKey
  | interrupted
  | error
deriving DecidableEq, Repr, Inhabited

/-- `CYCLE_COUNTER_PHASE`: where in the iteration the counter is bumped (40_dispatcher.md R111). -/
inductive CounterPhase where
  | beforeFetch
  | afterExecute
deriving DecidableEq, Repr

/-- The named parameters of 00_scope.md R7 that have a default or are open. `INITIAL_MEMORY` is `State.mem` at the
start of a run (70_reset_and_hazards.md R272). The values R7 fixes outright are constants of Machine/Parameters.lean.
One record is fixed for a run; State carries it because `step` is a function of State alone
(DESIGN CHOICE, notes/assumptions/2.md). -/
structure Config where
  /-- `KBSR_ADDR` (D5). -/
  kbsrAddr : Word
  /-- `KBDR_ADDR` (D5). -/
  kbdrAddr : Word
  /-- `COND_RESET` (D7). -/
  condReset : Cond
  /-- `CYCLE_COUNTER_ENABLED` (D8). -/
  cycleCounterEnabled : Bool
  /-- `CYCLE_COUNTER_ADDR` (D8). -/
  cycleCounterAddr : Word
  /-- `CYCLE_COUNTER_PHASE` (D9). -/
  cycleCounterPhase : CounterPhase
  /-- `TRAP_WRITES_R7` (D20). -/
  trapWritesR7 : Bool
  /-- `JSRR_BASE_AFTER_LINK` (D21). -/
  jsrrBaseAfterLink : Bool
  /-- `STRING_READS_INTERCEPTED` (D17). -/
  stringReadsIntercepted : Bool
  /-- `PUTS_CHAR` (D16) as plain data: the cells whose bytes differ from the default low byte, with those bytes
  (DESIGN CHOICE of the form, notes/assumptions/12.md). -/
  putsCharTable : List (Word × List Byte)
  /-- `IN_PROMPT` (D14). -/
  inPrompt : List Byte
  /-- `HALT_OUTPUT` (D19). -/
  haltOutput : List Byte
deriving DecidableEq, Repr

/-- FREE VALUE. The bytes of `IN_PROMPT` where no run names them: OPEN, "no default is normative"
(00_scope.md R7, U10). -/
opaque Config.openInPrompt : List Byte

/-- FREE VALUE. `draw16()`: what R0 holds after an interrupted GETC or IN (44_trap.md R227, U6), one for each index. -/
opaque Config.draw16 : Nat → Word

/-- FREE VALUE. `drawCond()`: what COND is after an interrupted GETC or IN (44_trap.md R227, U6), one for each index. -/
opaque Config.drawCond : Nat → Cond

/-- FREE VALUE. The answer of a `Poll()` made after the listed answers of `State.input` are used up: a poll
"always answers", and the source decides which answer comes (44_trap.md R225). -/
opaque Config.pollBeyond : Nat → InputAnswer

end Sys2Proof
end

