-- ==== Sys2Proof/Machine/Parameters.lean ====
section
/-! DEFINITION. The values of 00_scope.md R7: the ones the document fixes, and the default of every parameter. -/

namespace Sys2Proof.Machine

/-- `PC_RESET` (00_scope.md R7, 70_reset_and_hazards.md R270). -/
def pcReset : Word := 0x3000#16

/-- `KBSR_READY`: bit 15 only (00_scope.md R7, 20_memory.md R52). -/
def kbsrReady : Word := 0x8000#16

/-- `MEM_CELLS`: the number of cells, and of addresses (00_scope.md R7, 20_memory.md R50). -/
def memCells : Nat := 65536

/-- Every parameter at its default in 00_scope.md R7 (notes/assumptions/2.md to 13.md). `IN_PROMPT` has no default and
stays the free value. -/
def defaultConfig : Config where
  kbsrAddr := 0xFE00#16
  kbdrAddr := 0xFE02#16
  condReset := .z
  cycleCounterEnabled := true
  cycleCounterAddr := 0xFFFF#16
  cycleCounterPhase := .afterExecute
  trapWritesR7 := false
  jsrrBaseAfterLink := true
  stringReadsIntercepted := false
  putsCharTable := []
  inPrompt := Config.openInPrompt
  haltOutput := []

end Sys2Proof.Machine
end

