-- ==== Sys2Proof/Machine/State.lean ====
section
/-! DEFINITION. The state of the machine as plain data, the state after reset, and the reasons a step could stop.
INVENTORY.md, section State, lists every field with its rule and its reset value. -/

namespace Sys2Proof.Machine

/-- A memory cell: its address and the 16 bits it holds (20_memory.md R50, R51). The spec's smallest addressable unit
is the 16-bit cell, so a cell holds a `Word` where `Host.Cell` holds a byte (notes/assumptions/1.md). -/
abbrev Cell := Nat × Word

/-- Memory (10_state.md R35): the cells that do not hold 0, by strictly rising address. An unlisted address reads as
0x0000, the reset value of every cell (70_reset_and_hazards.md R270). `Memory.wf` (Machine/Ops.lean) is the form. -/
abbrev Memory := List Cell

/-- A report to the diagnostic sink (10_state.md R40). Its text is not specified (00_scope.md R15). -/
inductive DiagKind where
  | reservedOpcode (op : BitVec 4)
  | unknownTrap (code : BitVec 8)
  | inputError
deriving DecidableEq, Repr

/-- The iteration phase: the point the core has reached (10_state.md R36), as far as one step can end at it.
Almost every step runs from one loop check to the next (notes/assumptions/17.md). -/
inductive Phase where
  /-- `run()` has not been called yet (40_dispatcher.md R110). -/
  | beforeRun
  /-- At the loop check at the top of an iteration (R110). -/
  | loopCheck
  /-- Inside GETC, waiting for the answer of its blocking request (44_trap.md R226). -/
  | waitGetc
  /-- Inside IN, after the prompt, waiting for the answer of its blocking request (44_trap.md R226). -/
  | waitIn
  /-- Inside the loop of PUTS, about to read the cell at `a` (44_trap.md R213, R217). -/
  | inPuts (a : Word)
  /-- Inside the loop of PUTSP, about to read the cell at `a` (44_trap.md R215, R217). -/
  | inPutsp (a : Word)
  /-- `run()` has returned, the termination signal (00_scope.md R11). -/
  | ended
deriving DecidableEq, Repr

/-- The architectural state (10_state.md R40), the hidden state of R36, and what lies outside the core that its steps
read (R37). -/
@[ext]
structure State where
  /-- R0 to R7 (R20). -/
  regs : Vector Word 8
  /-- PC (R24). -/
  pc : Word
  /-- COND (R27). -/
  cond : Cond
  /-- RUNNING (R30). -/
  running : Bool
  /-- MEM (R35), with KBSR, KBDR and the cycle counter among its cells (R31). -/
  mem : Memory
  /-- OUT, the output stream, oldest byte first (R37). -/
  out : List Byte
  /-- DIAG, the diagnostic stream, oldest report first (R37). -/
  diag : List DiagKind
  /-- `ir`, the instruction word of the current iteration, none between iterations (R36, R270). -/
  ir : Option Word
  /-- The iteration phase (R36). -/
  phase : Phase
  /-- The answers the input source will give, next one first (R37, 44_trap.md R225; notes/assumptions/14.md). -/
  input : List InputAnswer
  /-- The parameters of the run (00_scope.md R7). -/
  config : Config
  /-- The MODEL's own field: the index of the next free value (notes/assumptions/16.md). -/
  draws : Nat
deriving DecidableEq, Repr

/-- The reasons the machine stops with a fault: none. "No operation ever raises a fatal error once the run loop has
started" (00_scope.md R16); 'A "fault" in the modelling guide's sense is never reached by this hardware'
(60_exceptions.md R240). -/
inductive Fault where
deriving DecidableEq, Repr

/-- The reasons an instruction has no meaning. -/
inductive Refusal where
  /-- Raised by an arm of `exec` for an instruction that has no meaning yet; no arm does. Safe: nothing is claimed. -/
  | notModelled (mnemonic : String)
deriving DecidableEq, Repr

/-- The state after reset with given parameters (70_reset_and_hazards.md R270): memory and registers zeroed, PC at the
origin, COND at `COND_RESET`, RUNNING false, the streams empty. -/
def State.resetWith (config : Config) : State where
  regs := Vector.replicate 8 0#16
  pc := pcReset
  cond := config.condReset
  running := false
  mem := []
  out := []
  diag := []
  ir := none
  phase := .beforeRun
  input := []
  config := config
  draws := 0

/-- The machine right after reset, every parameter at its default (70_reset_and_hazards.md R270). -/
def State.reset : State := State.resetWith defaultConfig

end Sys2Proof.Machine
end

