-- ==== Sys2Proof/Machine/Ops.lean ====
section
/-! DEFINITION. The named operations over registers, memory, streams and the input source: the pseudocode primitives
of 00_scope.md R9 and the memory paths of 20_memory.md. -/

namespace Sys2Proof.Machine

/-! ### Fields of the state -/

/-- `R[i]` (00_scope.md R9). -/
def State.reg (s : State) (i : RegIndex) : Word := s.regs[i.val]

/-- `R[i] <- v` (00_scope.md R9). No register is hardwired (10_state.md R20). -/
def State.setReg (s : State) (i : RegIndex) (v : Word) : State := { s with regs := s.regs.set i.val v }

/-- `pc <- target` (00_scope.md R9). -/
def State.setPc (s : State) (target : Word) : State := { s with pc := target }

/-- `COND <- c`. -/
def State.setCond (s : State) (c : Cond) : State := { s with cond := c }

/-- `RUNNING <- b` (00_scope.md R9). -/
def State.setRunning (s : State) (b : Bool) : State := { s with running := b }

/-- The memory array replaced. -/
def State.setMem (s : State) (m : Memory) : State := { s with mem := m }

/-- `ir <- w`, or none at the end of an iteration (10_state.md R36). -/
def State.setIr (s : State) (w : Option Word) : State := { s with ir := w }

/-- The iteration phase replaced (10_state.md R36). -/
def State.setPhase (s : State) (p : Phase) : State := { s with phase := p }

/-- The input source's remaining answers replaced (10_state.md R37). -/
def State.setInput (s : State) (l : List InputAnswer) : State := { s with input := l }

/-- `Emit` of a byte string, in order (00_scope.md R9, 44_trap.md R230). -/
def State.emit (s : State) (bytes : List Byte) : State := { s with out := s.out ++ bytes }

/-- `Diag(kind)` (00_scope.md R9). -/
def State.report (s : State) (k : DiagKind) : State := { s with diag := s.diag ++ [k] }

/-- The index of the next free value moved on (notes/assumptions/16.md). -/
def State.nextDraw (s : State) : State := { s with draws := s.draws + 1 }

/-! ### Words and bytes -/

/-- `zext_N(f)` (00_scope.md R8). -/
def zext {n : Nat} (f : BitVec n) : Word := f.setWidth 16

/-- `v[7:0]` (20_memory.md R57). -/
def lowByte (v : Word) : Byte := v.extractLsb' 0 8

/-- `v[15:8]` (20_memory.md R57). -/
def highByte (v : Word) : Byte := v.extractLsb' 8 8

/-! ### The memory array -/

/-- What an unlisted address reads as: every cell is zeroed at reset (70_reset_and_hazards.md R270). -/
def unlisted : Word := 0#16

/-- The value under a key of a list of cells. -/
def lookupCell : Memory → Nat → Word
  | [], _ => unlisted
  | (k, w) :: rest, a => if k = a then w else lookupCell rest a

/-- The list with the key `a` holding `v`: the entry is put in its place, changed, or taken out when `v` is what an
unlisted address reads as. -/
def updateCell : Memory → Nat → Word → Memory
  | [], a, v => if v = unlisted then [] else [(a, v)]
  | (k, w) :: rest, a, v =>
    if k < a then (k, w) :: updateCell rest a v
    else if k = a then (if v = unlisted then rest else (a, v) :: rest)
    else (if v = unlisted then (k, w) :: rest else (a, v) :: (k, w) :: rest)

/-- Strictly rising keys above `lo`, no entry equal to an unlisted one, every key an address. -/
def cellsFrom : Nat → Memory → Bool
  | _, [] => true
  | lo, (k, w) :: rest => decide (lo ≤ k) && decide (k < memCells) && decide (w ≠ unlisted) && cellsFrom (k + 1) rest

/-- The one canonical form of memory. -/
def Memory.wf (m : Memory) : Bool := cellsFrom 0 m

/-- `MemReadRaw(addr)`: one cell directly from the array (00_scope.md R9). -/
def Memory.read (m : Memory) (addr : Word) : Word := lookupCell m addr.toNat

/-- `MEM[addr] <- v`. -/
def Memory.write (m : Memory) (addr v : Word) : Memory := updateCell m addr.toNat v

/-- `MemWrite(addr, 1, v)`: a plain write at every address, device cells included (20_memory.md R54). -/
def State.write (s : State) (addr v : Word) : State := s.setMem (s.mem.write addr v)

/-! ### The character-input source -/

/-- `Poll()`: one non-blocking request, always answered; the answer is consumed (00_scope.md R12, 44_trap.md R225).
Beyond the listed answers the answer is a free value (notes/assumptions/15.md). -/
def poll (s : State) : InputAnswer × State :=
  match s.input with
  | answer :: rest => (answer, s.setInput rest)
  | [] => (Config.pollBeyond s.draws, s.nextDraw)

/-- The first answer that is not `NoKey`, with the answers after it: a blocking request goes on waiting while no key is
available (44_trap.md R226; notes/assumptions/14.md). -/
def firstAnswer : List InputAnswer → Option (InputAnswer × List InputAnswer)
  | [] => none
  | .noKey :: rest => firstAnswer rest
  | answer :: rest => some (answer, rest)

/-- `ReadBlocking()`: one blocking request, never answered `NoKey` (44_trap.md R226). Answers none while the source has
not answered: no listed answer is left (R226, U18; notes/assumptions/14.md). -/
def readBlocking (s : State) : Option InputAnswer × State :=
  match firstAnswer s.input with
  | some (answer, rest) => (some answer, s.setInput rest)
  | none => (none, s.setInput [])

/-- `draw16()` (00_scope.md R9). -/
def draw16 (s : State) : Word × State := (Config.draw16 s.draws, s.nextDraw)

/-- `drawCond()` (00_scope.md R9). -/
def drawCond (s : State) : Cond × State := (Config.drawCond s.draws, s.nextDraw)

/-! ### The memory-read path -/

/-- The keyboard-status intercept: the four arms of `MemRead`'s poll (20_memory.md R52). -/
def keyboardIntercept (s : State) : State :=
  let kbsr := s.config.kbsrAddr
  match poll s with
  | (.key k, s) => (s.write kbsr kbsrReady).write s.config.kbdrAddr (zext k)
  | (.noKey, s) => s.write kbsr 0#16
  | (.interrupted, s) => (s.write kbsr 0#16).setRunning false
  | (.error, s) => (s.report .inputError).write kbsr 0#16

/-- `MemRead(addr, 1)`: the intercept for `KBSR_ADDR`, then the array (20_memory.md R52, R53). Answers the cell and the
state after the read. -/
def memRead (addr : Word) (s : State) : Word × State :=
  let s := if addr = s.config.kbsrAddr then keyboardIntercept s else s
  (s.mem.read addr, s)

/-- `StrRead(a)`: raw by default, through the intercept when `STRING_READS_INTERCEPTED` (44_trap.md R217). -/
def strRead (a : Word) (s : State) : Word × State :=
  if s.config.stringReadsIntercepted then memRead a s else (s.mem.read a, s)

/-! ### The iteration -/

/-- `run()` up to its first loop check: RUNNING is set true (40_dispatcher.md R110). -/
def runEntry (s : State) : State := (s.setRunning true).setPhase .loopCheck

/-- `BumpCounter()`: a raw read and a plain write, modulo 65,536 (40_dispatcher.md R116). -/
def bumpCounter (s : State) : State :=
  s.write s.config.cycleCounterAddr (s.mem.read s.config.cycleCounterAddr + 1#16)

/-- The bump at one of the two places R111 gives it, when the counter is enabled and stands there. -/
def bumpAt (here : CounterPhase) (s : State) : State :=
  if s.config.cycleCounterEnabled && decide (s.config.cycleCounterPhase = here) then bumpCounter s else s

/-- Fetch and increment: `ir <- MemRead(PC, 1); pc <- PC + 1` (40_dispatcher.md R111 to R113). Answers the instruction
word and the state the handler starts in. -/
def fetch (s : State) : Word × State :=
  let addr := s.pc
  let (w, s) := memRead addr s
  (w, (s.setIr (some w)).setPc (addr + 1#16))

/-- The end of an iteration, once its handler has finished: the bump after execution, and `ir` is gone
(40_dispatcher.md R111, R120; 10_state.md R36). While the handler waits or loops, the iteration is not at its end. -/
def endIteration (s : State) : State :=
  if s.phase = .loopCheck then (bumpAt .afterExecute s).setIr none else s

/-! ### Trap entry

The core raises no exception and takes no interrupt (60_exceptions.md R240, R242), so there is no exception entry to
model. Entering a TRAP is the one shared operation of that kind; its return is no operation, because a routine never
changes PC (R245). -/

/-- Trap entry: no state is saved, no mode or mask changes and no vector is read; R7 gets pcI first when
`TRAP_WRITES_R7` (60_exceptions.md R244, 44_trap.md R200). -/
def trapEntry (s : State) : State :=
  if s.config.trapWritesR7 then s.setReg 7 s.pc else s

end Sys2Proof.Machine
end

