-- ==== Sys2Proof/Machine/Flags.lean ====
section
/-! DEFINITION. The condition-flag unit (41_operate.md R130 to R132). COND is the only flag state (10_state.md R27). -/

namespace Sys2Proof.Machine

/-- The state a 16-bit value gives the flags: Z for 0x0000, N when bit 15 is set, else P (41_operate.md R130). -/
def condOf (v : Word) : Cond :=
  if v = 0x0000#16 then .z else if v.getLsbD 15 then .n else .p

/-- `SetCC(v)` (41_operate.md R130). -/
def State.setCC (s : State) (v : Word) : State := s.setCond (condOf v)

/-- `R[DR] <- v; SetCC(R[DR])`: the flag unit runs after the write, on the value written (41_operate.md R132). -/
def State.setRegCC (s : State) (dr : RegIndex) (v : Word) : State := (s.setReg dr v).setCC v

/-- BR's `want`: some requested condition is the current one (43_control.md R180). -/
def branchTaken (n z p : Bool) (c : Cond) : Bool :=
  (n && decide (c = .n)) || (z && decide (c = .z)) || (p && decide (c = .p))

end Sys2Proof.Machine
end

