-- ==== Sys2Proof/Machine/Operands.lean ====
section
/-! DEFINITION. How operand fields become 16-bit operands (30_encoding.md R84), and the addressing modes
(42_load_store.md R150 to R152). -/

namespace Sys2Proof.Machine

/-- `sext_N(f)`: bit N-1 of the field copied into all higher bits (00_scope.md R8, 30_encoding.md R84). -/
def sext {n : Nat} (f : BitVec n) : Word := f.signExtend 16

/-- PC-relative addressing: `ea = pcI + sext_9(ir[8:0])`, modulo 65,536 (42_load_store.md R150). A handler's PC is the
incremented PC (40_dispatcher.md R113). -/
def pcRelative (offset9 : BitVec 9) (s : State) : Word := s.pc + sext offset9

/-- Base-plus-offset addressing: `ea = R[BaseR] + sext_6(ir[5:0])`, modulo 65,536 (42_load_store.md R151). -/
def baseOffset (baseR : RegIndex) (offset6 : BitVec 6) (s : State) : Word := s.reg baseR + sext offset6

/-- Indirect addressing: `ea = MemRead(pcI + sext_9(ir[8:0]), 1)`, the pointer read through the memory-read path
(42_load_store.md R152). Answers the address and the state after the read. -/
def indirect (offset9 : BitVec 9) (s : State) : Word × State := memRead (pcRelative offset9 s) s

end Sys2Proof.Machine
end

