-- ==== Sys2Proof/Machine/Control.lean ====
section
/-! DEFINITION. Control transfer: BR, JMP, JSR, JSRR (43_control.md R180 to R183). A handler's PC is the incremented
PC, and targets wrap modulo 65,536 (R184). -/

namespace Sys2Proof.Machine

/-- BR (43_control.md R180). -/
def execBr (n z p : Bool) (offset9 : BitVec 9) (s : State) : Host.Outcome State Fault Refusal :=
  .next (if branchTaken n z p s.cond then s.setPc (pcRelative offset9 s) else s)

/-- JMP, and RET when BaseR is 7 (43_control.md R181). -/
def execJmp (baseR : RegIndex) (s : State) : Host.Outcome State Fault Refusal :=
  .next (s.setPc (s.reg baseR))

/-- `R[7] <- pcI`, the link of JSR and JSRR (10_state.md R22). -/
def link (s : State) : State := s.setReg 7 s.pc

/-- JSR (43_control.md R182). -/
def execJsr (offset11 : BitVec 11) (s : State) : Host.Outcome State Fault Refusal :=
  .next ((link s).setPc (s.pc + sext offset11))

/-- JSRR: the base is read after the link is written when `JSRR_BASE_AFTER_LINK`, else before (43_control.md R183). -/
def execJsrr (baseR : RegIndex) (s : State) : Host.Outcome State Fault Refusal :=
  .next ((link s).setPc (if s.config.jsrrBaseAfterLink then (link s).reg baseR else s.reg baseR))

end Sys2Proof.Machine
end

