-- ==== Sys2Proof/Machine/LoadStore.lean ====
section
/-! DEFINITION. Loads, stores and LEA (42_load_store.md R153 to R159). Every handler read goes through the memory-read
path, every store is plain (20_memory.md R55). -/

namespace Sys2Proof.Machine

/-- `R[DR] <- MemRead(ea, 1); SetCC(R[DR])`: the end of every load. -/
def loadFrom (dr : RegIndex) (ea : Word) (s : State) : State :=
  let (v, s) := memRead ea s
  s.setRegCC dr v

/-- LD (42_load_store.md R153). -/
def execLd (dr : RegIndex) (offset9 : BitVec 9) (s : State) : Host.Outcome State Fault Refusal :=
  .next (loadFrom dr (pcRelative offset9 s) s)

/-- LDI: the pointer read, then the data read, both through the intercept (42_load_store.md R154). DEDUCED: where
`KBSR_ADDR` is 0x8000 or 0x0000 the two reads can both poll (notes/assumptions/31.md). -/
def execLdi (dr : RegIndex) (offset9 : BitVec 9) (s : State) : Host.Outcome State Fault Refusal :=
  let (ea, s) := indirect offset9 s
  .next (loadFrom dr ea s)

/-- LDR: the base is read before DR is written (42_load_store.md R155). -/
def execLdr (dr baseR : RegIndex) (offset6 : BitVec 6) (s : State) : Host.Outcome State Fault Refusal :=
  .next (loadFrom dr (baseOffset baseR offset6 s) s)

/-- LEA: no memory access; sets the flags (42_load_store.md R156). -/
def execLea (dr : RegIndex) (offset9 : BitVec 9) (s : State) : Host.Outcome State Fault Refusal :=
  .next (s.setRegCC dr (pcRelative offset9 s))

/-- ST (42_load_store.md R157). -/
def execSt (sr : RegIndex) (offset9 : BitVec 9) (s : State) : Host.Outcome State Fault Refusal :=
  .next (s.write (pcRelative offset9 s) (s.reg sr))

/-- STI: the pointer read goes through the intercept, the store is plain (42_load_store.md R158). -/
def execSti (sr : RegIndex) (offset9 : BitVec 9) (s : State) : Host.Outcome State Fault Refusal :=
  let (ea, s) := indirect offset9 s
  .next (s.write ea (s.reg sr))

/-- STR (42_load_store.md R159). -/
def execStr (sr baseR : RegIndex) (offset6 : BitVec 6) (s : State) : Host.Outcome State Fault Refusal :=
  .next (s.write (baseOffset baseR offset6 s) (s.reg sr))

end Sys2Proof.Machine
end

