-- ==== Sys2Proof/Machine/Operate.lean ====
section
/-! DEFINITION. The operate instructions ADD, AND and NOT (41_operate.md R133 to R138). Sources are read before the
destination is written (R132); AND leaves COND alone (R131, 90_conflicts.md C1). -/

namespace Sys2Proof.Machine

/-- ADD, register form (41_operate.md R133). -/
def execAddReg (dr sr1 sr2 : RegIndex) (s : State) : Host.Outcome State Fault Refusal :=
  .next (s.setRegCC dr (s.reg sr1 + s.reg sr2))

/-- ADD, immediate form (41_operate.md R134). -/
def execAddImm (dr sr1 : RegIndex) (imm5 : BitVec 5) (s : State) : Host.Outcome State Fault Refusal :=
  .next (s.setRegCC dr (s.reg sr1 + sext imm5))

/-- AND, register form (41_operate.md R135). -/
def execAndReg (dr sr1 sr2 : RegIndex) (s : State) : Host.Outcome State Fault Refusal :=
  .next (s.setReg dr (s.reg sr1 &&& s.reg sr2))

/-- AND, immediate form (41_operate.md R136). -/
def execAndImm (dr sr1 : RegIndex) (imm5 : BitVec 5) (s : State) : Host.Outcome State Fault Refusal :=
  .next (s.setReg dr (s.reg sr1 &&& sext imm5))

/-- NOT (41_operate.md R137). -/
def execNot (dr sr : RegIndex) (s : State) : Host.Outcome State Fault Refusal :=
  .next (s.setRegCC dr (~~~ s.reg sr))

end Sys2Proof.Machine
end

