-- ==== Sys2Proof/Machine/Reserved.lean ====
section
/-! DEFINITION. The reserved opcodes RTI and RES: one diagnostic report and nothing else (40_dispatcher.md R117). -/

namespace Sys2Proof.Machine

/-- RTI, opcode 0x8: returns from nothing and restores nothing (40_dispatcher.md R118). -/
def execRti (s : State) : Host.Outcome State Fault Refusal :=
  .next (s.report (.reservedOpcode 0x8#4))

/-- RES, opcode 0xD (40_dispatcher.md R119). -/
def execRes (s : State) : Host.Outcome State Fault Refusal :=
  .next (s.report (.reservedOpcode 0xD#4))

end Sys2Proof.Machine
end

