-- ==== Sys2Proof/Machine/Trap.lean ====
section
/-! DEFINITION. TRAP and its six service routines (44_trap.md R200 to R222). A routine is built into the core, runs
within its TRAP's iteration and never changes PC (R202). Each routine ends at the loop check; one that the source has
not answered, or whose string has not ended, leaves the core in its own phase (notes/assumptions/17.md, 18.md). -/

namespace Sys2Proof.Machine

/-! ### Character input -/

/-- A stored key: `R[0] <- zext_8(k); SetCC(R[0])` (44_trap.md R211, R214). -/
def storeKey (k : Byte) (s : State) : State := s.setRegCC 0 (zext k)

/-- An `Interrupted` answer at GETC or IN: RUNNING is cleared, R0 and COND are draws (44_trap.md R227). -/
def interruptedRead (s : State) : State :=
  let (v, s) := draw16 (s.setRunning false)
  let (c, s) := drawCond (s.setReg 0 v)
  s.setCond c

/-- The blocking request of GETC and IN and what its answer does; `echo` emits the key first, `waiting` is the phase the
core stays in while the source has not answered (44_trap.md R211, R214, R226 to R228). -/
def inputRoutine (echo : Bool) (waiting : Phase) (s : State) : State :=
  match readBlocking s with
  | (none, s) => s.setPhase waiting
  | (some (.key k), s) => (storeKey k (if echo then s.emit [k] else s)).setPhase .loopCheck
  | (some .interrupted, s) => (interruptedRead s).setPhase .loopCheck
  | (some .error, s) => (s.report .inputError).setPhase .loopCheck
  | (some .noKey, s) => s.setPhase waiting

/-- GETC's request: no echo (44_trap.md R211). -/
def getcRead (s : State) : State := inputRoutine false .waitGetc s

/-- IN's request, after the prompt: the key is echoed (44_trap.md R214). -/
def inRead (s : State) : State := inputRoutine true .waitIn s

/-- GETC, TRAP code 0x20 (44_trap.md R211). -/
def execGetc (s : State) : Host.Outcome State Fault Refusal := .next (getcRead (trapEntry s))

/-- IN, TRAP code 0x23: the prompt before the request, whatever the answer (44_trap.md R214). -/
def execIn (s : State) : Host.Outcome State Fault Refusal :=
  .next (inRead ((trapEntry s).emit s.config.inPrompt))

/-! ### Character output -/

/-- OUT, TRAP code 0x21 (44_trap.md R212). -/
def execOut (s : State) : Host.Outcome State Fault Refusal :=
  let s := trapEntry s
  .next (s.emit [lowByte (s.reg 0)])

/-- The bytes that a table gives a cell, or the cell's low byte (D16). -/
def putsCharFrom (c : Word) : List (Word × List Byte) → List Byte
  | [] => [lowByte c]
  | (cell, bytes) :: rest => if cell = c then bytes else putsCharFrom c rest

/-- `PUTS_CHAR(c)` (44_trap.md R213, D16). -/
def putsBytes (config : Config) (c : Word) : List Byte := putsCharFrom c config.putsCharTable

/-- The bytes PUTSP emits for a cell: the low byte always, then the high byte if it is not 0 (44_trap.md R215). -/
def putspBytes (_ : Config) (c : Word) : List Byte :=
  if highByte c = 0#8 then [lowByte c] else [lowByte c, highByte c]

/-- The loop of PUTS and PUTSP from the cell at `a`, for at most so many cells: a cell that reads 0x0000 ends the
routine, any other is emitted and the pointer moves on, modulo 65,536 (44_trap.md R213, R215, R217). When no cell was
0x0000, the core is still in the loop, at the phase `resume` gives. -/
def stringLoop (bytes : Config → Word → List Byte) (resume : Word → Phase) : Nat → Word → State → State
  | 0, a, s => s.setPhase (resume a)
  | cells + 1, a, s =>
    let (c, s) := strRead a s
    if c = 0x0000#16 then s.setPhase .loopCheck
    else stringLoop bytes resume cells (a + 1#16) (s.emit (bytes s.config c))

/-- The cells one step of a string routine reads at most: one lap of the memory (notes/assumptions/18.md). -/
def stringLap : Nat := memCells

/-- PUTS's loop (44_trap.md R213). -/
def putsLoop (a : Word) (s : State) : State := stringLoop putsBytes .inPuts stringLap a s

/-- PUTSP's loop (44_trap.md R215). -/
def putspLoop (a : Word) (s : State) : State := stringLoop putspBytes .inPutsp stringLap a s

/-- PUTS, TRAP code 0x22 (44_trap.md R213). -/
def execPuts (s : State) : Host.Outcome State Fault Refusal :=
  let s := trapEntry s
  .next (putsLoop (s.reg 0) s)

/-- PUTSP, TRAP code 0x24 (44_trap.md R215). -/
def execPutsp (s : State) : Host.Outcome State Fault Refusal :=
  let s := trapEntry s
  .next (putspLoop (s.reg 0) s)

/-! ### HALT and unknown codes -/

/-- HALT, TRAP code 0x25 (44_trap.md R216). -/
def execHalt (s : State) : Host.Outcome State Fault Refusal :=
  .next (((trapEntry s).emit s.config.haltOutput).setRunning false)

/-- TRAP with any other code: one diagnostic report (44_trap.md R222). -/
def execTrap (code : BitVec 8) (s : State) : Host.Outcome State Fault Refusal :=
  .next ((trapEntry s).report (.unknownTrap code))

end Sys2Proof.Machine
end

