-- ==== Sys2Proof/Machine/Iteration.lean ====
section
/-! DEFINITION. One iteration of the run loop, and the steps from the phases inside one (40_dispatcher.md R110, R111). -/

namespace Sys2Proof.Machine

/-- An iteration's end after a handler's next state (40_dispatcher.md R111). -/
def completeIteration : Host.Outcome State Fault Refusal → Host.Outcome State Fault Refusal
  | .next s => .next (endIteration s)
  | .fault r => .fault r
  | .refused r => .refused r

/-- `Iterate()`: the bump before the fetch, fetch, increment, decode, execute, the bump after execution
(40_dispatcher.md R111). -/
def iterate (s : State) : Host.Outcome State Fault Refusal :=
  let fetched := fetch (bumpAt .beforeFetch s)
  completeIteration (exec (decode fetched.1) fetched.2)

/-- What the core does next from each phase. At the loop check RUNNING decides (40_dispatcher.md R110); a routine that
waits or loops goes on where it is (44_trap.md R217, R226); after `run()` has returned nothing wakes the core
(60_exceptions.md R251; notes/assumptions/17.md to 19.md). -/
def stepFrom (s : State) : Host.Outcome State Fault Refusal :=
  match s.phase with
  | .beforeRun => .next (runEntry s)
  | .loopCheck => if s.running then iterate s else .next (s.setPhase .ended)
  | .waitGetc => completeIteration (.next (getcRead s))
  | .waitIn => completeIteration (.next (inRead s))
  | .inPuts a => completeIteration (.next (putsLoop a s))
  | .inPutsp a => completeIteration (.next (putspLoop a s))
  | .ended => .next s

/-- Where a word must lie to be fetched next: at PC, or one cell on when PC is `KBSR_ADDR`, whose fetch answers the
polled status and never a stored word (40_dispatcher.md R112; notes/assumptions/20.md). -/
def placeAt (s : State) : Word := if s.pc = s.config.kbsrAddr then s.pc + 1#16 else s.pc

/-- The cell value that is fetched as `w`: one less than `w` where the bump before the fetch changes that very cell
(40_dispatcher.md R111; notes/assumptions/20.md). -/
def placeValue (s : State) (w : Word) : Word :=
  if s.config.cycleCounterEnabled && decide (s.config.cycleCounterPhase = .beforeFetch)
      && decide (placeAt s = s.config.cycleCounterAddr) then w - 1#16 else w

/-- The word stored where the next iteration fetches, and the core at the loop check with RUNNING true. -/
def placeWord (s : State) (w : Word) : State :=
  runEntry ((s.setPc (placeAt s)).write (placeAt s) (placeValue s w))

end Sys2Proof.Machine
end

