-- ==== Sys2Proof/Machine/Step.lean ====
section
/-! DEFINITION. The step of the machine (40_dispatcher.md R110, R111), and how the host places one instruction. -/

namespace Sys2Proof.Machine

/-- One step: `run()`'s entry, one iteration, one request or lap of a routine that has not finished, or the return of
`run()` (40_dispatcher.md R110, R111; notes/assumptions/17.md). -/
def step (s : State) : Host.Outcome State Fault Refusal := stepFrom s

/-- The state in which the very next step fetches and runs the instruction whose low `nbits` bits are those of `w` and
whose other bits are 0 (notes/assumptions/20.md). -/
def State.withFetchWord (s : State) (nbits w : Nat) : State := placeWord s (BitVec.ofNat 16 (w % 2 ^ nbits))

end Sys2Proof.Machine
end

