-- ==== Sys2Proof/Machine/Loader.lean ====
section
/-! DEFINITION. What the external loader leaves in memory before a run (20_memory.md R56; 70_reset_and_hazards.md R271,
R272). The loader is no part of the core; its result, `INITIAL_MEMORY`, is a parameter of a run. -/

namespace Sys2Proof.Machine

/-- Pairs of bytes as big-endian words; none for an odd number of bytes, which is undefined (20_memory.md R56, U1). -/
def wordsOf : List Byte → Option (List Word)
  | [] => some []
  | [_] => none
  | hi :: lo :: rest => (wordsOf rest).map (fun ws => (hi ++ lo) :: ws)

/-- The load origin and the memory words of an image file (20_memory.md R56). None for an odd number of bytes, and none
for a file of zero bytes, which has no origin word and of which the spec says nothing (DESIGN CHOICE,
notes/assumptions/27.md). -/
def parseImage (bytes : List Byte) : Option (Word × List Word) :=
  match wordsOf bytes with
  | some (origin :: words) => some (origin, words)
  | _ => none

/-- The words stored at consecutive addresses from `a`. -/
def storeWords (m : Memory) (a : Word) : List Word → Memory
  | [] => m
  | w :: rest => storeWords (m.write a w) (a + 1#16) rest

/-- `INITIAL_MEMORY` of an image: `INITIAL_MEMORY[o + i] = wi`, every other cell 0x0000; none for an image that is
empty, is not whole words or runs past 0xFFFF, about which a claim says nothing (70_reset_and_hazards.md R272, U1, U2;
the empty one: DESIGN CHOICE, notes/assumptions/27.md). -/
def initialMemory (bytes : List Byte) : Option Memory :=
  match parseImage bytes with
  | some (origin, words) =>
    if origin.toNat + words.length ≤ memCells then some (storeWords [] origin words) else none
  | none => none

/-- The start state of a run: the reset state with `MEM = INITIAL_MEMORY` (70_reset_and_hazards.md R272), the parameters
and the source's answers of that run. The loader sets neither PC nor any register (R271). -/
def State.start (config : Config) (initial : Memory) (input : List InputAnswer) : State :=
  ((State.resetWith config).setMem initial).setInput input

/-- The start state of a run of an image file, none where the load fails: then "the caller must not start the run loop"
(70_reset_and_hazards.md R273). -/
def State.load (config : Config) (bytes : List Byte) (input : List InputAnswer) : Option State :=
  (initialMemory bytes).map (fun m => State.start config m input)

end Sys2Proof.Machine
end

