-- ==== Sys2Proof/Safety.lean ====
section
/-! DEFINITION. The terms the claims are stated in: what an instruction leaves alone, the invariant of the machine, and
what a next state is. -/

namespace Sys2Proof.Machine

/-! ### Frames -/

/-- Every register but the listed ones holds what it held. -/
def RegsSameBut (changed : List RegIndex) (s t : State) : Prop := ∀ r, r ∉ changed → t.reg r = s.reg r

/-- Every memory cell but the listed ones reads as it read. -/
def CellsSameBut (changed : List Word) (s t : State) : Prop :=
  ∀ a, a ∉ changed → t.mem.read a = s.mem.read a

/-- No byte was emitted, nothing was reported, no input request was made and no free value was drawn. -/
def StreamsSame (s t : State) : Prop :=
  t.out = s.out ∧ t.diag = s.diag ∧ t.input = s.input ∧ t.draws = s.draws

/-- The run loop is where it was: RUNNING, the instruction word, the iteration phase and the parameters. -/
def LoopSame (s t : State) : Prop :=
  t.running = s.running ∧ t.ir = s.ir ∧ t.phase = s.phase ∧ t.config = s.config

/-- What a TRAP does to R7 on entry, other registers aside: pcI when `TRAP_WRITES_R7`, else nothing
(44_trap.md R200). -/
def TrapLink (s t : State) : Prop := t.reg 7 = if s.config.trapWritesR7 then s.pc else s.reg 7

/-- No memory cell, no stream and nothing of the run loop changed: what a register-only instruction leaves alone. -/
def RestSame (s t : State) : Prop := t.mem = s.mem ∧ StreamsSame s t ∧ LoopSame s t

/-! ### Results -/

/-- The flags a 16-bit value gives, in the document's words: zero, at least 32768, or neither (41_operate.md R130). -/
def SignOf (v : Word) (c : Cond) : Prop :=
  (v.toNat = 0 → c = .z) ∧ (32768 ≤ v.toNat → c = .n) ∧ (v.toNat ≠ 0 ∧ v.toNat < 32768 → c = .p)

/-- DR took the value and COND its sign; no other register, and not PC, changed. -/
def WroteWithFlags (dr : RegIndex) (v : Word) (s t : State) : Prop :=
  t.reg dr = v ∧ SignOf v t.cond ∧ RegsSameBut [dr] s t ∧ t.pc = s.pc

/-- The cell at `a` took the value; no other cell, no register, no flag, not PC, no stream and nothing of the run loop
changed. -/
def Stored (a v : Word) (s t : State) : Prop :=
  t.mem.read a = v ∧ CellsSameBut [a] s t ∧ RegsSameBut [] s t ∧ t.cond = s.cond ∧ t.pc = s.pc ∧ StreamsSame s t ∧
    LoopSame s t

/-- What a poll made in `s` is answered, the answers listed after it and the index of the next free value: the next
listed answer, or, when none is listed, the free value at the current index, which moves on by one (44_trap.md R225;
notes/assumptions/15.md). Every state has exactly one such triple. -/
def PollAnswer (answer : InputAnswer) (rest : List InputAnswer) (draws : Nat) (s : State) : Prop :=
  (s.input = answer :: rest ∧ draws = s.draws) ∨
  (s.input = [] ∧ answer = Config.pollBeyond s.draws ∧ rest = [] ∧ draws = s.draws + 1)

/-- The fresh status a poll leaves in KBSR (20_memory.md R52; `Interrupted` and `Error`: the spec's decision D12,
notes/assumptions/22.md). -/
def statusOf : InputAnswer → Word
  | .key _ => 0x8000#16
  | .noKey | .interrupted | .error => 0x0000#16

/-- What a poll answered so reports (20_memory.md R52). -/
def reportsOf : InputAnswer → List DiagKind
  | .error => [.inputError]
  | .key _ | .noKey | .interrupted => []

/-- What the cell at `a` reads after a poll in `s` answered so: KBSR the fresh status, KBDR the key if there is one, every
other cell what it read (20_memory.md R52, R53). The two cells are taken to differ. -/
def cellAfterPoll (answer : InputAnswer) (s : State) (a : Word) : Word :=
  if a = s.config.kbsrAddr then statusOf answer
  else match answer with
    | .key k => if a = s.config.kbdrAddr then BitVec.ofNat 16 k.toNat else s.mem.read a
    | .noKey | .interrupted | .error => s.mem.read a

/-- What one poll at the keyboard-status cell does, as `PollAnswer` names its answer and what it leaves of the source:
the cells it writes, and RUNNING and DIAG (20_memory.md R52). No register, flag, PC or output changes. -/
def Polled (answer : InputAnswer) (rest : List InputAnswer) (draws : Nat) (s t : State) : Prop :=
  (∀ a, t.mem.read a = cellAfterPoll answer s a) ∧
  t.running = (if answer = .interrupted then false else s.running) ∧ t.diag = s.diag ++ reportsOf answer ∧
  RegsSameBut [] s t ∧ t.cond = s.cond ∧ t.pc = s.pc ∧ t.out = s.out ∧ t.input = rest ∧ t.draws = draws ∧
  t.ir = s.ir ∧ t.phase = s.phase ∧ t.config = s.config

/-- The bytes of a packed cell: its low byte always, its high byte when that is not 0 (44_trap.md R215). -/
def packedBytes (w : Word) : List Byte :=
  BitVec.ofNat 8 (w.toNat % 256) :: if w.toNat / 256 = 0 then [] else [BitVec.ofNat 8 (w.toNat / 256)]

/-- A string from the pointer `a` whose cell number `k` is KBSR and whose cell number `n`, read after the poll, ends it;
`n` is 65,536 for a string that a whole lap does not end. The cells before KBSR are read before the poll. -/
def StringOverStatus (a : Word) (k n : Nat) (answer : InputAnswer) (s : State) : Prop :=
  k ≤ n ∧ k < 65536 ∧ n ≤ 65536 ∧ a + BitVec.ofNat 16 k = s.config.kbsrAddr ∧
  (∀ j < k, s.mem.read (a + BitVec.ofNat 16 j) ≠ 0#16) ∧
  (∀ j, k ≤ j → j < n → cellAfterPoll answer s (a + BitVec.ofNat 16 j) ≠ 0#16) ∧
  (n < 65536 → cellAfterPoll answer s (a + BitVec.ofNat 16 n) = 0#16)

/-- Such a string has been emitted: the bytes of its cells in order, those from KBSR on as they read after the poll, and
the poll's own effects. The phase is `inside` after a whole lap, else the core is at the loop check. -/
def StringPolled (bytes : Word → List Byte) (inside : Phase) (a : Word) (k n : Nat) (answer : InputAnswer)
    (rest : List InputAnswer) (draws : Nat) (s t : State) : Prop :=
  t.out = s.out ++ (List.range k).flatMap (fun j => bytes (s.mem.read (a + BitVec.ofNat 16 j))) ++
    (List.range (n - k)).flatMap (fun j => bytes (cellAfterPoll answer s (a + BitVec.ofNat 16 (k + j)))) ∧
  (∀ b, t.mem.read b = cellAfterPoll answer s b) ∧
  t.running = (if answer = .interrupted then false else s.running) ∧ t.diag = s.diag ++ reportsOf answer ∧
  t.input = rest ∧ t.draws = draws ∧ t.cond = s.cond ∧ t.pc = s.pc ∧ t.ir = s.ir ∧ t.config = s.config ∧
  t.phase = if n = 65536 then inside else .loopCheck

/-- A state with the memory of a canonical list and two different device cells: what the cells of a poll need. -/
def DeviceCells (s : State) : Prop := s.mem.wf = true ∧ s.config.kbsrAddr ≠ s.config.kbdrAddr

/-- A trap routine is done: PC, memory and the free values are as they were, the core is at its loop check, and of the
registers only the listed ones and R7, which follows `TRAP_WRITES_R7`, may differ. -/
def RoutineDone (changed : List RegIndex) (s t : State) : Prop :=
  RegsSameBut (7 :: changed) s t ∧ TrapLink s t ∧ t.pc = s.pc ∧ t.mem = s.mem ∧ t.ir = s.ir ∧ t.config = s.config ∧
    t.phase = .loopCheck

/-! ### Equality outside one field -/

/-- `t'` is `t` but for COND. -/
def SameButCond (t t' : State) : Prop := t.setCond .z = t'.setCond .z

/-- `t'` is `t` but for RUNNING. -/
def SameButRunning (t t' : State) : Prop := t.setRunning false = t'.setRunning false

/-- The state with its diagnostic stream replaced. -/
def State.withDiag (s : State) (d : List DiagKind) : State := { s with diag := d }

/-- The state with its output stream replaced. -/
def State.withOut (s : State) (o : List Byte) : State := { s with out := o }

/-! ### The invariant -/

/-- Between iterations: before the run, at a loop check, or after the run. -/
def Phase.between : Phase → Bool
  | .beforeRun | .loopCheck | .ended => true
  | .waitGetc | .waitIn | .inPuts _ | .inPutsp _ => false

/-- The invariant every step keeps: memory is canonical (notes/assumptions/1.md), an instruction word is held exactly
within an iteration (10_state.md R36), and RUNNING is false before and after the run (10_state.md R30). -/
structure Inv (s : State) : Prop where
  canonical : s.mem.wf = true
  irWithin : s.ir = none ↔ s.phase.between = true
  notRunning : s.phase = .beforeRun ∨ s.phase = .ended → s.running = false

/-- A core at the loop check with RUNNING true: its next step is an iteration (40_dispatcher.md R110). -/
def AtLoop (s : State) : Prop := s.phase = .loopCheck ∧ s.running = true

/-- The state a handler starts in when the word at PC is fetched without a poll: the bump before the fetch, the
instruction word, the incremented PC (40_dispatcher.md R111). -/
def handlerStart (s : State) : State :=
  let b := bumpAt .beforeFetch s
  (b.setIr (some (b.mem.read b.pc))).setPc (b.pc + 1#16)

end Sys2Proof.Machine
end

