-- ==== Sys2Proof/WellFormed.lean ====
section
/-! DEFINITION. Which instruction terms stand for an instruction word. The field widths are in the types; what is left
to check is that a TRAP word with a service code is that service's row, never the generic one (30_encoding.md R90). -/

namespace Sys2Proof

/-- "When two rows match, the row with more mask bits wins" (30_encoding.md R90): the generic TRAP row stands only for
a code that has no service row. -/
def Instr.wellFormed : Instr → Bool
  | .trap code => (serviceRow code).isNone
  | .br _ _ _ _ | .addReg _ _ _ | .addImm _ _ _ | .ld _ _ | .st _ _ | .jsr _ | .jsrr _ | .andReg _ _ _
  | .andImm _ _ _ | .ldr _ _ _ | .str _ _ _ | .rti | .not _ _ | .ldi _ _ | .sti _ _ | .jmp _ | .res | .lea _ _
  | .getc | .out | .puts | .inp | .putsp | .halt => true

end Sys2Proof
end

