-- ==== Sys2Proof/Certificates/Slice0/Obligations.lean ====
section
/-! DEFINITION. The statements for the provers. A statement about an instruction's result has as its conclusion that
`exec` answers a next state, so it says too where the instruction completes. -/

open Sys2Proof Sys2Proof.Machine

/-! ### Encoding -/

/-- Words written out from 30_encoding.md R83, R88, R93 and 95_test_vectors.md decode to the instruction they stand for.
The opcode numbers and bit positions are the LC-3's, supplied by the spec (notes/assumptions/4.md). -/
def Obligations.WordsOfTheSpecDecode : Prop :=
  decode 0x0402#16 = .br false true false 2#9 ∧ decode 0x1642#16 = .addReg 3 1 2 ∧
  decode 0x103F#16 = .addImm 0 0 0b11111#5 ∧ decode 0x52BF#16 = .andImm 1 2 0b11111#5 ∧
  decode 0x94BF#16 = .not 2 2 ∧ decode 0x673E#16 = .ldr 3 4 0b111110#6 ∧ decode 0xB404#16 = .sti 2 4#9 ∧
  decode 0x4FFF#16 = .jsr 0x7FF#11 ∧ decode 0x40C0#16 = .jsrr 3 ∧ decode 0xC1C0#16 = .jmp 7 ∧
  decode 0xD123#16 = .res ∧ decode 0xF120#16 = .getc ∧ decode 0xF026#16 = .trap 0x26#8

/-- Every word is read by the row of the opcode table that its fixed bits name, each field from its own bits, written
here as quotients and remainders of the word's number (30_encoding.md R81 to R83, R88, R90; positions: log 4). -/
def Obligations.DecoderReadsEveryFieldFromItsBits : Prop :=
  ∀ ir : Word,
    let w := ir.toNat
    let op := w / 4096
    let r9 : RegIndex := Fin.ofNat 8 (w / 512)
    let r6 : RegIndex := Fin.ofNat 8 (w / 64)
    let r0 : RegIndex := Fin.ofNat 8 w
    let o9 := BitVec.ofNat 9 w
    (op = 0x0 → decode ir = .br (decide (w / 2048 % 2 = 1)) (decide (w / 1024 % 2 = 1)) (decide (w / 512 % 2 = 1)) o9) ∧
    (op = 0x1 → w / 32 % 2 = 0 → decode ir = .addReg r9 r6 r0) ∧
    (op = 0x1 → w / 32 % 2 = 1 → decode ir = .addImm r9 r6 (BitVec.ofNat 5 w)) ∧
    (op = 0x2 → decode ir = .ld r9 o9) ∧ (op = 0x3 → decode ir = .st r9 o9) ∧
    (op = 0x4 → w / 2048 % 2 = 1 → decode ir = .jsr (BitVec.ofNat 11 w)) ∧
    (op = 0x4 → w / 2048 % 2 = 0 → decode ir = .jsrr r6) ∧
    (op = 0x5 → w / 32 % 2 = 0 → decode ir = .andReg r9 r6 r0) ∧
    (op = 0x5 → w / 32 % 2 = 1 → decode ir = .andImm r9 r6 (BitVec.ofNat 5 w)) ∧
    (op = 0x6 → decode ir = .ldr r9 r6 (BitVec.ofNat 6 w)) ∧ (op = 0x7 → decode ir = .str r9 r6 (BitVec.ofNat 6 w)) ∧
    (op = 0x8 → decode ir = .rti) ∧ (op = 0x9 → decode ir = .not r9 r6) ∧
    (op = 0xA → decode ir = .ldi r9 o9) ∧ (op = 0xB → decode ir = .sti r9 o9) ∧
    (op = 0xC → decode ir = .jmp r6) ∧ (op = 0xD → decode ir = .res) ∧ (op = 0xE → decode ir = .lea r9 o9) ∧
    (op = 0xF → w % 256 = 0x20 → decode ir = .getc) ∧ (op = 0xF → w % 256 = 0x21 → decode ir = .out) ∧
    (op = 0xF → w % 256 = 0x22 → decode ir = .puts) ∧ (op = 0xF → w % 256 = 0x23 → decode ir = .inp) ∧
    (op = 0xF → w % 256 = 0x24 → decode ir = .putsp) ∧ (op = 0xF → w % 256 = 0x25 → decode ir = .halt) ∧
    (op = 0xF → w % 256 < 0x20 ∨ 0x25 < w % 256 → decode ir = .trap (BitVec.ofNat 8 w))

/-- Decode and encode agree: the word of a well-formed instruction decodes to it, with every operand at every value. -/
def Obligations.DecodeOfEncodeIsTheInstruction : Prop :=
  ∀ i : Instr, i.wellFormed = true → decode (encode i) = i

/-- Two words that agree on every bit their row fixes or reads, the ignored bits apart, decode alike: the ignored bits
of ADD and AND register form, NOT, JMP, JSRR, RTI, RES and TRAP do not change what a word does
(30_encoding.md R86, the spec's decision D3; notes/assumptions/5.md). -/
def Obligations.IgnoredBitsDoNotMatter : Prop :=
  ∀ w w' : Word,
    ((w &&& 0xFFE7#16 = w' &&& 0xFFE7#16 ∧ (w &&& 0xF020#16 = 0x1000#16 ∨ w &&& 0xF020#16 = 0x5000#16)) ∨
     (w &&& 0xFFC0#16 = w' &&& 0xFFC0#16 ∧ w &&& 0xF000#16 = 0x9000#16) ∨
     (w &&& 0xF1C0#16 = w' &&& 0xF1C0#16 ∧ w &&& 0xF000#16 = 0xC000#16) ∨
     (w &&& 0xF9C0#16 = w' &&& 0xF9C0#16 ∧ w &&& 0xF800#16 = 0x4000#16) ∨
     (w &&& 0xF000#16 = w' &&& 0xF000#16 ∧ (w &&& 0xF000#16 = 0x8000#16 ∨ w &&& 0xF000#16 = 0xD000#16)) ∨
     (w &&& 0xF0FF#16 = w' &&& 0xF0FF#16 ∧ w &&& 0xF000#16 = 0xF000#16)) →
    decode w = decode w'

/-! ### Operands and flags -/

/-- 30_encoding.md R84: a signed field keeps its signed value in 16 bits, replicating its sign bit into all higher bits;
imm5 is what ADD adds and AND masks with; an offset of 1 is the next cell; the sum of a base and an offset is taken
modulo 65,536; a trap code is an unsigned 8-bit code that goes into no register: R7 is pcI or what it was, as
`TRAP_WRITES_R7` says (the spec's decision D20, notes/assumptions/9.md), and every other register what it was. -/
def Obligations.SignedFieldsAreSignExtended : Prop :=
  (∀ f : BitVec 5, (sext f).toInt = f.toInt ∧ -16 ≤ (sext f).toInt ∧ (sext f).toInt ≤ 15 ∧
    ∀ i < 16, (sext f).getLsbD i = if i < 5 then f.getLsbD i else f.getLsbD 4) ∧
  (∀ f : BitVec 6, (sext f).toInt = f.toInt ∧ -32 ≤ (sext f).toInt ∧ (sext f).toInt ≤ 31 ∧
    ∀ i < 16, (sext f).getLsbD i = if i < 6 then f.getLsbD i else f.getLsbD 5) ∧
  (∀ f : BitVec 9, (sext f).toInt = f.toInt ∧ -256 ≤ (sext f).toInt ∧ (sext f).toInt ≤ 255 ∧
    ∀ i < 16, (sext f).getLsbD i = if i < 9 then f.getLsbD i else f.getLsbD 8) ∧
  (∀ f : BitVec 11, (sext f).toInt = f.toInt ∧ -1024 ≤ (sext f).toInt ∧ (sext f).toInt ≤ 1023 ∧
    ∀ i < 16, (sext f).getLsbD i = if i < 11 then f.getLsbD i else f.getLsbD 10) ∧
  (sext 1#6 = 1#16 ∧ sext 1#9 = 1#16 ∧ sext 1#11 = 1#16) ∧
  (∀ (dr sr1 : RegIndex) (f : BitVec 5) (s : State), ∃ t, exec (.addImm dr sr1 f) s = .next t ∧
    t.reg dr = s.reg sr1 + sext f ∧ ((t.reg dr).toNat : Int) = ((s.reg sr1).toNat + f.toInt) % 65536) ∧
  (∀ (dr sr1 : RegIndex) (f : BitVec 5) (s : State), ∃ t, exec (.andImm dr sr1 f) s = .next t ∧
    t.reg dr = s.reg sr1 &&& sext f) ∧
  (∀ (f : BitVec 9) (s : State), ((pcRelative f s).toNat : Int) = (s.pc.toNat + f.toInt) % 65536) ∧
  (∀ (r : RegIndex) (f : BitVec 6) (s : State), ((baseOffset r f s).toNat : Int) = ((s.reg r).toNat + f.toInt) % 65536) ∧
  (∀ (f : BitVec 11) (s : State), ∃ t, exec (.jsr f) s = .next t ∧ (t.pc.toNat : Int) = (s.pc.toNat + f.toInt) % 65536) ∧
  (∀ (code : BitVec 8) (s : State), ∃ t, exec (.trap code) s = .next t ∧ t.diag = s.diag ++ [.unknownTrap code] ∧
    RegsSameBut [7] s t ∧ TrapLink s t)

/-- 41_operate.md R130 and R131: SetCC's three cases; ADD, NOT, LD, LDI, LDR and LEA set the flags from the value just
written to DR, GETC and IN from the key just written to R0; AND and every other instruction leave COND alone. -/
def Obligations.FlagsAreSetByExactlyTheListedInstructions : Prop :=
  (∀ (v : Word) (s : State), (v = 0x0000#16 → (s.setCC v).cond = .z) ∧
    (v ≠ 0x0000#16 → v.getLsbD 15 = true → (s.setCC v).cond = .n) ∧
    (v ≠ 0x0000#16 → v.getLsbD 15 = false → (s.setCC v).cond = .p)) ∧
  (∀ (i : Instr) (dr : RegIndex) (s t : State), exec i s = .next t →
    ((∃ a b, i = .addReg dr a b) ∨ (∃ a f, i = .addImm dr a f) ∨ (∃ a, i = .not dr a) ∨ (∃ f, i = .ld dr f) ∨
      (∃ f, i = .ldi dr f) ∨ (∃ b f, i = .ldr dr b f) ∨ (∃ f, i = .lea dr f)) →
    SignOf (t.reg dr) t.cond) ∧
  (∀ (i : Instr) (k : Byte) (rest : List InputAnswer) (s t : State), exec i s = .next t → i = .getc ∨ i = .inp →
    s.input = .key k :: rest → (t.reg 0).toNat = k.toNat ∧ SignOf (t.reg 0) t.cond) ∧
  (∀ (i : Instr) (s t : State), exec i s = .next t →
    ¬((∃ d a b, i = .addReg d a b) ∨ (∃ d a f, i = .addImm d a f) ∨ (∃ d a, i = .not d a) ∨ (∃ d f, i = .ld d f) ∨
      (∃ d f, i = .ldi d f) ∨ (∃ d b f, i = .ldr d b f) ∨ (∃ d f, i = .lea d f) ∨ i = .getc ∨ i = .inp) →
    t.cond = s.cond)

/-- COND is read only by BR (10_state.md R28): for every other instruction two states that differ in COND alone lead to
states that differ in COND at most. -/
def Obligations.OnlyBranchesReadTheFlags : Prop :=
  ∀ (i : Instr) (s : State) (c : Cond) (t t' : State), (∀ n z p f, i ≠ .br n z p f) →
    exec i s = .next t → exec i (s.setCond c) = .next t' → SameButCond t t'

/-! ### Operate instructions -/

/-- ADD, both forms: DR gets the sum modulo 65,536 of the sources as they were, COND its sign, and nothing else changes
(41_operate.md R133, R134, R138). -/
def Obligations.AddWritesTheSumAndItsSign : Prop :=
  (∀ (dr sr1 sr2 : RegIndex) (s : State), ∃ t, exec (.addReg dr sr1 sr2) s = .next t ∧
    WroteWithFlags dr (BitVec.ofNat 16 ((s.reg sr1).toNat + (s.reg sr2).toNat)) s t ∧ RestSame s t) ∧
  (∀ (dr sr1 : RegIndex) (imm5 : BitVec 5) (s : State), ∃ t, exec (.addImm dr sr1 imm5) s = .next t ∧
    WroteWithFlags dr (BitVec.ofInt 16 ((s.reg sr1).toNat + imm5.toInt)) s t ∧ RestSame s t)

/-- AND, both forms: DR gets the bitwise conjunction, and COND keeps its value whatever the result
(41_operate.md R135, R136; 90_conflicts.md C1). -/
def Obligations.AndWritesTheConjunctionAndNoFlag : Prop :=
  (∀ (dr sr1 sr2 : RegIndex) (s : State), ∃ t, exec (.andReg dr sr1 sr2) s = .next t ∧
    (∀ b < 16, (t.reg dr).getLsbD b = ((s.reg sr1).getLsbD b && (s.reg sr2).getLsbD b)) ∧
    t.cond = s.cond ∧ RegsSameBut [dr] s t ∧ t.pc = s.pc ∧ RestSame s t) ∧
  (∀ (dr sr1 : RegIndex) (imm5 : BitVec 5) (s : State), ∃ t, exec (.andImm dr sr1 imm5) s = .next t ∧
    (∀ b < 16, (t.reg dr).getLsbD b = ((s.reg sr1).getLsbD b && (if b < 5 then imm5.getLsbD b else imm5.getLsbD 4))) ∧
    t.cond = s.cond ∧ RegsSameBut [dr] s t ∧ t.pc = s.pc ∧ RestSame s t)

/-- NOT: DR gets the 16-bit complement and COND its sign, and nothing else changes (41_operate.md R137). -/
def Obligations.NotWritesTheComplementAndItsSign : Prop :=
  ∀ (dr sr : RegIndex) (s : State), ∃ t, exec (.not dr sr) s = .next t ∧
    WroteWithFlags dr (BitVec.ofNat 16 (65535 - (s.reg sr).toNat)) s t ∧ RestSame s t

/-- LEA: DR gets the PC-relative address and COND its sign, memory is neither read nor written, and no poll happens,
even for the address `KBSR_ADDR` (42_load_store.md R156). -/
def Obligations.LeaWritesTheAddressWithoutMemory : Prop :=
  ∀ (dr : RegIndex) (offset9 : BitVec 9) (s : State), ∃ t, exec (.lea dr offset9) s = .next t ∧
    WroteWithFlags dr (BitVec.ofInt 16 (s.pc.toNat + offset9.toInt)) s t ∧ RestSame s t

/-- Subtraction is NOT, then ADD #1, then ADD: the two's-complement difference modulo 65,536 (41_operate.md R138). -/
def Obligations.SubtractionIsNotAddOneAdd : Prop :=
  ∀ (a b : RegIndex) (s : State), a ≠ b → ∃ t u v, exec (.not b b) s = .next t ∧ exec (.addImm b b 1#5) t = .next u ∧
    exec (.addReg a a b) u = .next v ∧
    ((v.reg a).toNat : Int) = ((s.reg a).toNat - (s.reg b).toNat : Int) % 65536

/-! ### Loads -/

/-- LD, LDR and LDI away from `KBSR_ADDR`: DR gets the cell at the effective address and COND its sign; nothing else
changes (42_load_store.md R153 to R155). -/
def Obligations.LoadsWriteTheCellAndItsSign : Prop :=
  (∀ (dr : RegIndex) (offset9 : BitVec 9) (s : State), pcRelative offset9 s ≠ s.config.kbsrAddr →
    ∃ t, exec (.ld dr offset9) s = .next t ∧
      WroteWithFlags dr (s.mem.read (pcRelative offset9 s)) s t ∧ RestSame s t) ∧
  (∀ (dr baseR : RegIndex) (offset6 : BitVec 6) (s : State), baseOffset baseR offset6 s ≠ s.config.kbsrAddr →
    ∃ t, exec (.ldr dr baseR offset6) s = .next t ∧
      WroteWithFlags dr (s.mem.read (baseOffset baseR offset6 s)) s t ∧ RestSame s t) ∧
  (∀ (dr : RegIndex) (offset9 : BitVec 9) (s : State), pcRelative offset9 s ≠ s.config.kbsrAddr →
    s.mem.read (pcRelative offset9 s) ≠ s.config.kbsrAddr →
    ∃ t, exec (.ldi dr offset9) s = .next t ∧
      WroteWithFlags dr (s.mem.read (s.mem.read (pcRelative offset9 s))) s t ∧ RestSame s t)

/-- A load whose data address is `KBSR_ADDR` polls, the listed answers used up or not: one answer is taken, KBSR (and
KBDR for a key) are written, DR gets the fresh status and COND its sign (42_load_store.md R153 to R155, 20_memory.md
R52). The `Interrupted` and `Error` arms are the spec's decision D12 (notes/assumptions/22.md), that the reads of LD, LDR
and LDI poll its decision D22 (notes/assumptions/24.md); an answer beyond the list is free (notes/assumptions/15.md). -/
def Obligations.LoadOfKeyboardStatusPolls : Prop :=
  ∀ (i : Instr) (dr : RegIndex) (answer : InputAnswer) (rest : List InputAnswer) (draws : Nat) (s : State),
    DeviceCells s → PollAnswer answer rest draws s →
    ((∃ f, i = .ld dr f ∧ pcRelative f s = s.config.kbsrAddr) ∨
     (∃ b f, i = .ldr dr b f ∧ baseOffset b f s = s.config.kbsrAddr) ∨
     (∃ f, i = .ldi dr f ∧ pcRelative f s ≠ s.config.kbsrAddr ∧
        s.mem.read (pcRelative f s) = s.config.kbsrAddr)) →
    ∃ u t, exec i s = .next t ∧ Polled answer rest draws s u ∧ WroteWithFlags dr (statusOf answer) u t ∧ RestSame u t

/-- LDI whose pointer cell is KBSR: the pointer read polls, and the data come from the address that the fresh status
names, 0x8000 or 0x0000 (42_load_store.md R154). The last clause is the model's reading (DEDUCED,
notes/assumptions/31.md): where `KBSR_ADDR` is itself that address, the data read polls again, by the pseudocode of R154
and 20_memory.md R52, against R154's sentence "the keyboard cannot be polled twice in one LDI", whose reason fails for
those two parameter values. The `Interrupted` and `Error` arms are the spec's decision D12 (notes/assumptions/22.md),
that both reads poll its decision D22 (notes/assumptions/24.md); an answer beyond the list is free
(notes/assumptions/15.md). -/
def Obligations.LdiThroughKeyboardStatusReadsTheStatusAddress : Prop :=
  ∀ (dr : RegIndex) (f : BitVec 9) (answer : InputAnswer) (rest : List InputAnswer) (draws : Nat) (s : State),
    DeviceCells s → PollAnswer answer rest draws s → pcRelative f s = s.config.kbsrAddr →
    ∃ u t, exec (.ldi dr f) s = .next t ∧ Polled answer rest draws s u ∧
      (statusOf answer ≠ s.config.kbsrAddr → WroteWithFlags dr (u.mem.read (statusOf answer)) u t ∧ RestSame u t) ∧
      (statusOf answer = s.config.kbsrAddr → ∀ (answer' : InputAnswer) (rest' : List InputAnswer) (draws' : Nat),
        PollAnswer answer' rest' draws' u →
        ∃ v, Polled answer' rest' draws' u v ∧ WroteWithFlags dr (statusOf answer') v t ∧ RestSame v t)

/-! ### Stores -/

/-- ST and STR at every address, and STI with a pointer cell other than KBSR: the cell at the effective address gets SR,
every other cell reads as before, and no register, flag or stream changes; device cells are written plainly
(42_load_store.md R157 to R159, 20_memory.md R54). -/
def Obligations.StoresWriteOneCellPlainly : Prop :=
  (∀ (sr : RegIndex) (offset9 : BitVec 9) (s : State), s.mem.wf = true →
    ∃ t, exec (.st sr offset9) s = .next t ∧ Stored (pcRelative offset9 s) (s.reg sr) s t) ∧
  (∀ (sr baseR : RegIndex) (offset6 : BitVec 6) (s : State), s.mem.wf = true →
    ∃ t, exec (.str sr baseR offset6) s = .next t ∧ Stored (baseOffset baseR offset6 s) (s.reg sr) s t) ∧
  (∀ (sr : RegIndex) (offset9 : BitVec 9) (s : State), s.mem.wf = true → pcRelative offset9 s ≠ s.config.kbsrAddr →
    ∃ t, exec (.sti sr offset9) s = .next t ∧ Stored (s.mem.read (pcRelative offset9 s)) (s.reg sr) s t)

/-- STI whose pointer cell is KBSR: the pointer read polls, and the store goes to the address the fresh status names,
0x8000 or 0x0000 (42_load_store.md R158). The `Interrupted` and `Error` arms are the spec's decision D12
(notes/assumptions/22.md), that the pointer read polls its decision D22 (notes/assumptions/24.md); an answer beyond the
list is free (notes/assumptions/15.md). -/
def Obligations.StiThroughKeyboardStatusStoresAtTheStatusAddress : Prop :=
  ∀ (sr : RegIndex) (f : BitVec 9) (answer : InputAnswer) (rest : List InputAnswer) (draws : Nat) (s : State),
    DeviceCells s → PollAnswer answer rest draws s → pcRelative f s = s.config.kbsrAddr →
    ∃ u t, exec (.sti sr f) s = .next t ∧ Polled answer rest draws s u ∧ Stored (statusOf answer) (s.reg sr) u t

/-- The round trips of 42_load_store.md R160: what ST, STR or STI stored, LD, LDR or LDI with the same operands then
loads, when neither the target nor the pointer cell is KBSR. For STI the target is not the pointer cell itself, which
the store would overwrite. -/
def Obligations.LoadReadsBackTheStore : Prop :=
  (∀ (sr dr : RegIndex) (f : BitVec 9) (s : State), s.mem.wf = true → pcRelative f s ≠ s.config.kbsrAddr →
    ∃ t u, exec (.st sr f) s = .next t ∧ exec (.ld dr f) t = .next u ∧ u.reg dr = s.reg sr) ∧
  (∀ (sr dr b : RegIndex) (f : BitVec 6) (s : State), s.mem.wf = true → baseOffset b f s ≠ s.config.kbsrAddr →
    ∃ t u, exec (.str sr b f) s = .next t ∧ exec (.ldr dr b f) t = .next u ∧ u.reg dr = s.reg sr) ∧
  (∀ (sr dr : RegIndex) (f : BitVec 9) (s : State), s.mem.wf = true → pcRelative f s ≠ s.config.kbsrAddr →
    s.mem.read (pcRelative f s) ≠ s.config.kbsrAddr → s.mem.read (pcRelative f s) ≠ pcRelative f s →
    ∃ t u, exec (.sti sr f) s = .next t ∧ exec (.ldi dr f) t = .next u ∧ u.reg dr = s.reg sr)

/-! ### Control transfer -/

/-- BR branches exactly when a requested condition is the current one, in the document's form: the requested bits AND
the one-hot code of COND is not 0; it writes PC only (43_control.md R180). -/
def Obligations.BranchFollowsTheFlags : Prop :=
  ∀ (n z p : Bool) (f : BitVec 9) (s : State), ∃ t, exec (.br n z p f) s = .next t ∧
    (let bits := BitVec.ofBool n ++ BitVec.ofBool z ++ BitVec.ofBool p
     let code : BitVec 3 := match s.cond with | .n => 0b100#3 | .z => 0b010#3 | .p => 0b001#3
     t.pc = if bits &&& code ≠ 0#3 then BitVec.ofInt 16 (s.pc.toNat + f.toInt) else s.pc) ∧
    RegsSameBut [] s t ∧ t.cond = s.cond ∧ RestSame s t

/-- JMP (RET for R7) sets PC to the base register and writes nothing else (43_control.md R181). -/
def Obligations.JumpSetsPcOnly : Prop :=
  ∀ (b : RegIndex) (s : State), ∃ t, exec (.jmp b) s = .next t ∧ t.pc = s.reg b ∧
    RegsSameBut [] s t ∧ t.cond = s.cond ∧ RestSame s t

/-- JSR links the incremented PC in R7 and jumps relative to it (43_control.md R182). -/
def Obligations.JsrLinksAndJumps : Prop :=
  ∀ (f : BitVec 11) (s : State), ∃ t, exec (.jsr f) s = .next t ∧ t.reg 7 = s.pc ∧
    t.pc = BitVec.ofInt 16 (s.pc.toNat + f.toInt) ∧ RegsSameBut [7] s t ∧ t.cond = s.cond ∧ RestSame s t

/-- JSRR links the incremented PC in R7 and jumps to the base register; for R7 itself `JSRR_BASE_AFTER_LINK` says
whether the base is read after the link or before (43_control.md R183, the spec's decision D21). -/
def Obligations.JsrrLinksAndJumpsInEitherOrder : Prop :=
  ∀ (b : RegIndex) (s : State), ∃ t, exec (.jsrr b) s = .next t ∧ t.reg 7 = s.pc ∧
    t.pc = (if b = 7 ∧ s.config.jsrrBaseAfterLink = true then s.pc else s.reg b) ∧
    RegsSameBut [7] s t ∧ t.cond = s.cond ∧ RestSame s t

/-- PC is left at the incremented PC by every instruction but BR, JMP, JSR and JSRR (10_state.md R25). -/
def Obligations.OnlyControlTransfersWritePc : Prop :=
  ∀ (i : Instr) (s t : State), exec i s = .next t → (∀ n z p f, i ≠ .br n z p f) → (∀ b, i ≠ .jmp b) →
    (∀ f, i ≠ .jsr f) → (∀ b, i ≠ .jsrr b) → t.pc = s.pc

/-! ### Reserved opcodes and TRAP -/

/-- RTI and RES make one report and change nothing else (40_dispatcher.md R117 to R119, the spec's decision D10). -/
def Obligations.ReservedOpcodesReportAndGoOn : Prop :=
  ∀ s : State,
    (∃ t, exec .rti s = .next t ∧ t.diag = s.diag ++ [.reservedOpcode 0x8#4] ∧ t.withDiag s.diag = s) ∧
    (∃ t, exec .res s = .next t ∧ t.diag = s.diag ++ [.reservedOpcode 0xD#4] ∧ t.withDiag s.diag = s)

/-- An unknown trap code makes one report; R7 is written when `TRAP_WRITES_R7`, nothing else changes
(44_trap.md R222, R200, the spec's decision D20). The generic TRAP row holds every code without a service row. -/
def Obligations.UnknownTrapReportsAndGoesOn : Prop :=
  ∀ (code : BitVec 8) (s : State), ∃ t, exec (.trap code) s = .next t ∧ t.diag = s.diag ++ [.unknownTrap code] ∧
    RegsSameBut [7] s t ∧ TrapLink s t ∧ t.pc = s.pc ∧ t.cond = s.cond ∧ t.mem = s.mem ∧ t.out = s.out ∧
    t.input = s.input ∧ t.draws = s.draws ∧ LoopSame s t

/-- GETC, for every answer of the source: a key is stored zero-extended with its flags and no echo; an error is reported
and R0 and COND keep their values; an interrupt clears RUNNING and leaves R0 and COND open (44_trap.md R211, R226 to
R229). `NoKey`s before the answer are passed over (notes/assumptions/14.md). -/
def Obligations.GetcStoresTheKeyWithoutEcho : Prop :=
  ∀ (s : State) (n : Nat) (rest : List InputAnswer),
    (∀ k, s.input = List.replicate n .noKey ++ .key k :: rest → ∃ t, exec .getc s = .next t ∧
      (t.reg 0).toNat = k.toNat ∧ SignOf (t.reg 0) t.cond ∧ t.out = s.out ∧ t.diag = s.diag ∧
      t.running = s.running ∧ t.input = rest ∧ t.draws = s.draws ∧ RoutineDone [0] s t) ∧
    (s.input = List.replicate n .noKey ++ .error :: rest → ∃ t, exec .getc s = .next t ∧
      t.reg 0 = s.reg 0 ∧ t.cond = s.cond ∧ t.out = s.out ∧ t.diag = s.diag ++ [.inputError] ∧
      t.running = s.running ∧ t.input = rest ∧ t.draws = s.draws ∧ RoutineDone [] s t) ∧
    (s.input = List.replicate n .noKey ++ .interrupted :: rest → ∃ t, exec .getc s = .next t ∧
      t.running = false ∧ t.out = s.out ∧ t.diag = s.diag ∧ t.input = rest ∧ RoutineDone [0] s t)

/-- IN, for every answer of the source: the prompt is emitted first whatever the answer, the echo only for a key; the
rest as GETC (44_trap.md R214, R226 to R229; the prompt's bytes are the open parameter). -/
def Obligations.InEmitsThePromptAndEchoesTheKey : Prop :=
  ∀ (s : State) (n : Nat) (rest : List InputAnswer),
    (∀ k, s.input = List.replicate n .noKey ++ .key k :: rest → ∃ t, exec .inp s = .next t ∧
      (t.reg 0).toNat = k.toNat ∧ SignOf (t.reg 0) t.cond ∧ t.out = s.out ++ s.config.inPrompt ++ [k] ∧
      t.diag = s.diag ∧ t.running = s.running ∧ t.input = rest ∧ t.draws = s.draws ∧ RoutineDone [0] s t) ∧
    (s.input = List.replicate n .noKey ++ .error :: rest → ∃ t, exec .inp s = .next t ∧
      t.reg 0 = s.reg 0 ∧ t.cond = s.cond ∧ t.out = s.out ++ s.config.inPrompt ∧ t.diag = s.diag ++ [.inputError] ∧
      t.running = s.running ∧ t.input = rest ∧ t.draws = s.draws ∧ RoutineDone [] s t) ∧
    (s.input = List.replicate n .noKey ++ .interrupted :: rest → ∃ t, exec .inp s = .next t ∧
      t.running = false ∧ t.out = s.out ++ s.config.inPrompt ∧ t.diag = s.diag ∧ t.input = rest ∧ RoutineDone [0] s t)

/-- A blocking request that the source has not answered: GETC and IN (after its prompt) stay inside their iteration, and
every further step makes no progress and bumps no counter. Once a key, an error or an interrupt is there the routine
completes as GETC and IN do, the iteration ends and the counter is bumped (44_trap.md R226 to R228, 60_exceptions.md
R251). The waiting phases, and passing over `NoKey`s, are the model's (notes/assumptions/14.md, 17.md); the effects of an
error and of an interrupt are the spec's decision D13 (notes/assumptions/16.md, 22.md). -/
def Obligations.BlockingReadWaitsForTheSource : Prop :=
  (∀ (s : State) (n : Nat), s.input = List.replicate n .noKey → ∃ t, exec .getc s = .next t ∧ t.phase = .waitGetc ∧
    t.input = [] ∧ t.out = s.out ∧ t.diag = s.diag ∧ t.draws = s.draws ∧ t.pc = s.pc ∧ t.cond = s.cond ∧
    t.mem = s.mem ∧ t.running = s.running ∧ t.ir = s.ir ∧ RegsSameBut [7] s t ∧ TrapLink s t) ∧
  (∀ (s : State) (n : Nat), s.input = List.replicate n .noKey → ∃ t, exec .inp s = .next t ∧ t.phase = .waitIn ∧
    t.input = [] ∧ t.out = s.out ++ s.config.inPrompt ∧ t.diag = s.diag ∧ t.draws = s.draws ∧ t.pc = s.pc ∧
    t.cond = s.cond ∧ t.mem = s.mem ∧ t.running = s.running ∧ t.ir = s.ir ∧ RegsSameBut [7] s t ∧ TrapLink s t) ∧
  (∀ (s : State) (n : Nat), s.phase = .waitGetc ∨ s.phase = .waitIn → s.input = List.replicate n .noKey →
    step s = .next (s.setInput [])) ∧
  (∀ (s : State) (n : Nat) (rest : List InputAnswer), s.phase = .waitGetc ∨ s.phase = .waitIn →
    (∀ k, s.input = List.replicate n .noKey ++ .key k :: rest → ∃ t, step s = .next t ∧ t.phase = .loopCheck ∧
      t.ir = none ∧ (t.reg 0).toNat = k.toNat ∧ SignOf (t.reg 0) t.cond ∧ RegsSameBut [0] s t ∧ t.pc = s.pc ∧
      t.input = rest ∧ t.draws = s.draws ∧ t.out = s.out ++ (if s.phase = .waitIn then [k] else []) ∧
      t.diag = s.diag ∧ t.running = s.running ∧ t.mem = (bumpAt .afterExecute s).mem) ∧
    (s.input = List.replicate n .noKey ++ .error :: rest → ∃ t, step s = .next t ∧ t.phase = .loopCheck ∧
      t.ir = none ∧ RegsSameBut [] s t ∧ t.cond = s.cond ∧ t.pc = s.pc ∧ t.input = rest ∧ t.draws = s.draws ∧
      t.out = s.out ∧ t.diag = s.diag ++ [.inputError] ∧ t.running = s.running ∧
      t.mem = (bumpAt .afterExecute s).mem) ∧
    (s.input = List.replicate n .noKey ++ .interrupted :: rest → ∃ t, step s = .next t ∧ t.phase = .loopCheck ∧
      t.ir = none ∧ RegsSameBut [0] s t ∧ t.pc = s.pc ∧ t.input = rest ∧ t.out = s.out ∧ t.diag = s.diag ∧
      t.running = false ∧ t.mem = (bumpAt .afterExecute s).mem ∧ step t = .next (t.setPhase .ended)))

/-- OUT emits R0's low byte; no general register but R7 under `TRAP_WRITES_R7`, no flag and no cell changes
(44_trap.md R212, R219). -/
def Obligations.OutEmitsTheLowByte : Prop :=
  ∀ s : State, ∃ t, exec .out s = .next t ∧ t.out = s.out ++ [BitVec.ofNat 8 ((s.reg 0).toNat % 256)] ∧
    RegsSameBut [7] s t ∧ TrapLink s t ∧ t.cond = s.cond ∧ t.pc = s.pc ∧ t.mem = s.mem ∧ t.diag = s.diag ∧
    t.input = s.input ∧ t.draws = s.draws ∧ LoopSame s t

/-- HALT emits `HALT_OUTPUT` and clears RUNNING; no general register but R7 under `TRAP_WRITES_R7`, no flag and no cell
changes (44_trap.md R216, R219, the spec's decision D19). -/
def Obligations.HaltClearsRunning : Prop :=
  ∀ s : State, ∃ t, exec .halt s = .next t ∧ t.running = false ∧ t.out = s.out ++ s.config.haltOutput ∧
    RegsSameBut [7] s t ∧ TrapLink s t ∧ t.cond = s.cond ∧ t.pc = s.pc ∧ t.mem = s.mem ∧ t.diag = s.diag ∧
    t.input = s.input ∧ t.draws = s.draws ∧ t.ir = s.ir ∧ t.phase = s.phase ∧ t.config = s.config

/-- PUTS: the cells from R0 up to the first that reads 0x0000, which is not emitted, give their bytes in order; a string
may wrap from 0xFFFF to 0x0000. The bytes of a cell are `PUTS_CHAR`: its low byte where the table has no entry for it,
else the first entry's. With intercepted reads the string stays off KBSR (44_trap.md R213, R217, R218; D16, D17). -/
def Obligations.PutsEmitsTheStringAtR0 : Prop :=
  (∀ (s : State) (n : Nat), n < 65536 →
    (∀ k < n, s.mem.read (s.reg 0 + BitVec.ofNat 16 k) ≠ 0#16) → s.mem.read (s.reg 0 + BitVec.ofNat 16 n) = 0#16 →
    (s.config.stringReadsIntercepted = true → ∀ k ≤ n, s.reg 0 + BitVec.ofNat 16 k ≠ s.config.kbsrAddr) →
    ∃ t, exec .puts s = .next t ∧
      t.out = s.out ++ (List.range n).flatMap (fun k => putsBytes s.config (s.mem.read (s.reg 0 + BitVec.ofNat 16 k))) ∧
      t.cond = s.cond ∧ t.diag = s.diag ∧ t.input = s.input ∧ t.draws = s.draws ∧ t.running = s.running ∧
      RoutineDone [] s t) ∧
  (∀ (c : Config) (w : Word), (∀ e ∈ c.putsCharTable, e.1 ≠ w) → putsBytes c w = [BitVec.ofNat 8 (w.toNat % 256)]) ∧
  (∀ (c : Config) (w : Word) (bytes : List Byte) (before after : List (Word × List Byte)),
    c.putsCharTable = before ++ (w, bytes) :: after → (∀ e ∈ before, e.1 ≠ w) → putsBytes c w = bytes)

/-- PUTSP: each cell before the first that reads 0x0000 gives its low byte, even a 0, then its high byte if that is not
0 (44_trap.md R215, R217, R218; D17). -/
def Obligations.PutspEmitsThePackedStringAtR0 : Prop :=
  ∀ (s : State) (n : Nat), n < 65536 →
    (∀ k < n, s.mem.read (s.reg 0 + BitVec.ofNat 16 k) ≠ 0#16) → s.mem.read (s.reg 0 + BitVec.ofNat 16 n) = 0#16 →
    (s.config.stringReadsIntercepted = true → ∀ k ≤ n, s.reg 0 + BitVec.ofNat 16 k ≠ s.config.kbsrAddr) →
    ∃ t, exec .putsp s = .next t ∧
      t.out = s.out ++ (List.range n).flatMap (fun k =>
        let c := (s.mem.read (s.reg 0 + BitVec.ofNat 16 k)).toNat
        BitVec.ofNat 8 (c % 256) :: if c / 256 = 0 then [] else [BitVec.ofNat 8 (c / 256)]) ∧
      t.cond = s.cond ∧ t.diag = s.diag ∧ t.input = s.input ∧ t.draws = s.draws ∧ t.running = s.running ∧
      RoutineDone [] s t

/-- A string routine never stops on its own when no cell reads 0x0000: with raw reads, PUTS and PUTSP stay inside their
iteration, a further step is inside it again, at the same pointer after a whole lap, and bumps no counter
(44_trap.md R217). One lap a step is the model's choice (notes/assumptions/18.md). -/
def Obligations.UnterminatedStringNeverEnds : Prop :=
  ∀ s : State, s.config.stringReadsIntercepted = false → (∀ a, s.mem.read a ≠ 0#16) →
    (∃ t, exec .puts s = .next t ∧ t.phase = .inPuts (s.reg 0) ∧ t.mem = s.mem ∧ t.running = s.running ∧
      t.pc = s.pc ∧ t.config = s.config) ∧
    (∃ t, exec .putsp s = .next t ∧ t.phase = .inPutsp (s.reg 0) ∧ t.mem = s.mem ∧ t.running = s.running ∧
      t.pc = s.pc ∧ t.config = s.config) ∧
    (∀ a, s.phase = .inPuts a → ∃ t, step s = .next t ∧ t.phase = .inPuts a ∧ t.mem = s.mem ∧
      t.running = s.running ∧ t.pc = s.pc ∧ t.config = s.config) ∧
    (∀ a, s.phase = .inPutsp a → ∃ t, step s = .next t ∧ t.phase = .inPutsp a ∧ t.mem = s.mem ∧
      t.running = s.running ∧ t.pc = s.pc ∧ t.config = s.config)

/-- With `STRING_READS_INTERCEPTED` the string cell that is KBSR is polled, wherever the string reaches it: the cells
before it are emitted, the fresh status is read as a cell (0x0000 ends the string, 0x8000 is emitted and the string goes
on over what the poll left), and the poll's writes, report and cleared RUNNING stand. The same for a routine that is
already inside its loop; after a whole lap without a zero cell it is inside still (44_trap.md R217, 40_dispatcher.md
R120; the spec's decisions D12 and D17, notes/assumptions/11.md, 22.md; the lap: notes/assumptions/18.md; an answer
beyond the list is free: notes/assumptions/15.md). -/
def Obligations.InterceptedStringReadPolls : Prop :=
  ∀ (answer : InputAnswer) (rest : List InputAnswer) (draws k n : Nat) (a : Word) (s : State), DeviceCells s →
    s.config.stringReadsIntercepted = true → PollAnswer answer rest draws s → StringOverStatus a k n answer s →
    (a = s.reg 0 → ∃ t, exec .puts s = .next t ∧ RegsSameBut [7] s t ∧ TrapLink s t ∧
      StringPolled (putsBytes s.config) (.inPuts a) a k n answer rest draws s t) ∧
    (a = s.reg 0 → ∃ t, exec .putsp s = .next t ∧ RegsSameBut [7] s t ∧ TrapLink s t ∧
      StringPolled packedBytes (.inPutsp a) a k n answer rest draws s t) ∧
    (s.phase = .inPuts a → ∃ t, RegsSameBut [] s t ∧
      StringPolled (putsBytes s.config) (.inPuts a) a k n answer rest draws s t ∧
      step s = .next (if n = 65536 then t else (bumpAt .afterExecute t).setIr none)) ∧
    (s.phase = .inPutsp a → ∃ t, RegsSameBut [] s t ∧
      StringPolled packedBytes (.inPutsp a) a k n answer rest draws s t ∧
      step s = .next (if n = 65536 then t else (bumpAt .afterExecute t).setIr none))

/-! ### Memory -/

/-- A read returns the latest write to the same cell, and a write changes no other cell; two canonical memories that
read alike at every address are the same data (20_memory.md R54, R62; the form: notes/assumptions/1.md). -/
def Obligations.ReadReturnsTheLatestWrite : Prop :=
  (∀ (m : Memory) (a b v : Word), m.wf = true →
    (m.write a v).wf = true ∧ (m.write a v).read a = v ∧ (b ≠ a → (m.write a v).read b = m.read b)) ∧
  (∀ m m' : Memory, m.wf = true → m'.wf = true → (∀ a, m.read a = m'.read a) → m = m')

/-- Only a read of `KBSR_ADDR` has a side effect: every other read, KBDR and the cycle counter among them, answers the
stored value and leaves the state as it is (20_memory.md R53, R59, the spec's decision D11, notes/assumptions/24.md). A
read of `KBSR_ADDR` polls and answers the fresh status, the listed answers used up or not (R52; the `Interrupted` and
`Error` arms are the spec's decision D12, notes/assumptions/22.md; an answer beyond the list is free,
notes/assumptions/15.md). Every poll has an answer (44_trap.md R225). -/
def Obligations.OnlyKeyboardStatusReadsHaveSideEffects : Prop :=
  (∀ (a : Word) (s : State), a ≠ s.config.kbsrAddr → memRead a s = (s.mem.read a, s)) ∧
  (∀ (answer : InputAnswer) (rest : List InputAnswer) (draws : Nat) (s : State), DeviceCells s →
    PollAnswer answer rest draws s →
    Polled answer rest draws s (memRead s.config.kbsrAddr s).2 ∧
    (memRead s.config.kbsrAddr s).1 = statusOf answer) ∧
  (∀ s : State, ∃ answer rest draws, PollAnswer answer rest draws s)

/-- The source is asked by no instruction but the loads LD, LDI, LDR, STI's pointer read, the string routines, GETC and
IN; the others leave its answers and the free values alone (00_scope.md R13, 20_memory.md R55). -/
def Obligations.OtherInstructionsMakeNoInputRequest : Prop :=
  ∀ (i : Instr) (s t : State), exec i s = .next t → (∀ d f, i ≠ .ld d f) → (∀ d f, i ≠ .ldi d f) →
    (∀ d b f, i ≠ .ldr d b f) → (∀ r f, i ≠ .sti r f) → i ≠ .puts → i ≠ .putsp → i ≠ .getc → i ≠ .inp →
    t.input = s.input ∧ t.draws = s.draws

/-- Only OUT, PUTS, IN, PUTSP and HALT emit (00_scope.md R14). -/
def Obligations.OnlyTheOutputRoutinesEmit : Prop :=
  ∀ (i : Instr) (s t : State), exec i s = .next t → i ≠ .out → i ≠ .puts → i ≠ .inp → i ≠ .putsp → i ≠ .halt →
    t.out = s.out

/-- Memory is written by ST, STI and STR, and otherwise only by polls, in the two keyboard cells: every other
instruction leaves every other cell alone, and all of memory where it takes no answer, listed or free
(20_memory.md R52 to R55; the counter's bump is no part of an instruction). -/
def Obligations.OnlyStoresAndPollsWriteMemory : Prop :=
  ∀ (i : Instr) (s t : State), exec i s = .next t → (∀ r f, i ≠ .st r f) → (∀ r f, i ≠ .sti r f) →
    (∀ r b f, i ≠ .str r b f) →
    (s.mem.wf = true → CellsSameBut [s.config.kbsrAddr, s.config.kbdrAddr] s t) ∧
    (t.input = s.input → t.draws = s.draws → t.mem = s.mem)

/-! ### The run loop -/

/-- A step runs the decoded instruction: at the loop check with RUNNING true and PC off KBSR, step is `exec` of what the
word at PC decodes to, in the state with the instruction word held and PC incremented; a handler that is done is
followed by the bump after execution, one that is not stays inside the iteration (40_dispatcher.md R111 to R116). -/
def Obligations.StepRunsTheDecodedInstruction : Prop :=
  ∀ s : State, AtLoop s → s.pc ≠ s.config.kbsrAddr →
    (∀ t, exec (decode ((bumpAt .beforeFetch s).mem.read s.pc)) (handlerStart s) = .next t →
      step s = .next (if t.phase = .loopCheck then (bumpAt .afterExecute t).setIr none else t)) ∧
    (handlerStart s).pc = s.pc + 1#16 ∧ (handlerStart s).mem = (bumpAt .beforeFetch s).mem ∧
    (∀ r, (handlerStart s).reg r = s.reg r) ∧ (handlerStart s).cond = s.cond ∧
    (s.config.cycleCounterPhase = .afterExecute ∨ s.config.cycleCounterEnabled = false →
      bumpAt .beforeFetch s = s) ∧
    (s.config.cycleCounterPhase = .beforeFetch ∨ s.config.cycleCounterEnabled = false →
      ∀ t : State, t.config = s.config → bumpAt .afterExecute t = t)

/-- Fetch at KBSR polls, and the fresh status is executed as an instruction: RTI for a key, a branch never taken for
every other answer (40_dispatcher.md R112, the words' meaning the spec's inference). The poll's writes, report and cleared
RUNNING stand, and the counter is bumped as at any other fetch, before the poll or after the execution (the spec's
decision D9, notes/assumptions/8.md), also where its cell is one of the poll's. The `Interrupted` and `Error` arms are the spec's decision D12 (notes/assumptions/22.md); an answer beyond the list is free
(notes/assumptions/15.md). -/
def Obligations.FetchOfKeyboardStatusExecutesTheStatus : Prop :=
  ∀ (answer : InputAnswer) (rest : List InputAnswer) (draws : Nat) (s : State), AtLoop s → DeviceCells s →
    s.pc = s.config.kbsrAddr → PollAnswer answer rest draws s →
    ∃ t, step s = .next t ∧
      t.diag = s.diag ++ reportsOf answer ++ (if statusOf answer = 0x8000#16 then [.reservedOpcode 0x8#4] else []) ∧
      t.running = decide (answer ≠ .interrupted) ∧ t.pc = s.pc + 1#16 ∧ RegsSameBut [] s t ∧ t.cond = s.cond ∧
      t.out = s.out ∧ t.input = rest ∧ t.draws = draws ∧ t.phase = .loopCheck ∧ t.ir = none ∧ t.config = s.config ∧
      (∀ a, a ≠ s.config.cycleCounterAddr → t.mem.read a = cellAfterPoll answer s a) ∧
      (s.config.cycleCounterEnabled = true → s.config.cycleCounterPhase = .afterExecute →
        t.mem.read s.config.cycleCounterAddr = cellAfterPoll answer s s.config.cycleCounterAddr + 1#16) ∧
      (s.config.cycleCounterEnabled = true → s.config.cycleCounterPhase = .beforeFetch →
        t.mem.read s.config.cycleCounterAddr =
          if s.config.cycleCounterAddr = s.config.kbsrAddr ∨
              (s.config.cycleCounterAddr = s.config.kbdrAddr ∧ statusOf answer = 0x8000#16)
          then cellAfterPoll answer s s.config.cycleCounterAddr else s.mem.read s.config.cycleCounterAddr + 1#16) ∧
      (s.config.cycleCounterEnabled = false → ∀ a, t.mem.read a = cellAfterPoll answer s a)

/-- 40_dispatcher.md R113: PC is incremented by 1 modulo 65,536 after the fetch and before the handler, whatever word is
fetched; PC-relative addresses and the link are taken from the incremented PC; a fetch at 0xFFFF leaves PC at 0x0000. -/
def Obligations.HandlersSeeTheIncrementedPc : Prop :=
  (∀ s : State, (fetch s).2.pc.toNat = (s.pc.toNat + 1) % 65536) ∧
  (∀ s : State, s.pc = 0xFFFF#16 → (fetch s).2.pc = 0x0000#16) ∧
  (∀ (s : State) (f : BitVec 9),
    pcRelative f (fetch s).2 = BitVec.ofInt 16 (s.pc.toNat + 1 + f.toInt)) ∧
  (∀ s : State, AtLoop s → s.pc ≠ s.config.kbsrAddr → ∀ t, step s = .next t →
    (∀ dr f, decode ((bumpAt .beforeFetch s).mem.read s.pc) = .lea dr f →
      t.reg dr = BitVec.ofInt 16 (s.pc.toNat + 1 + f.toInt)) ∧
    (∀ f, decode ((bumpAt .beforeFetch s).mem.read s.pc) = .jsr f →
      t.reg 7 = s.pc + 1#16 ∧ t.pc = BitVec.ofInt 16 (s.pc.toNat + 1 + f.toInt)) ∧
    (∀ b, decode ((bumpAt .beforeFetch s).mem.read s.pc) = .jsrr b → t.reg 7 = s.pc + 1#16))

/-- The cycle counter goes up by 1 modulo 65,536 once in an iteration that the handler ends, whatever was fetched:
reserved opcodes, unknown traps, a fetch at KBSR and the iteration that clears RUNNING included; with the counter
disabled memory is as the handler left it (40_dispatcher.md R116, the spec's decisions D8 and D9; here the
after-execute phase). -/
def Obligations.CounterIsBumpedOncePerIteration : Prop :=
  ∀ s u : State, AtLoop s → s.mem.wf = true → s.config.cycleCounterPhase = .afterExecute →
    exec (decode (fetch s).1) (fetch s).2 = .next u → u.phase = .loopCheck →
    ∃ t, step s = .next t ∧
      (s.config.cycleCounterEnabled = true →
        (t.mem.read s.config.cycleCounterAddr).toNat = ((u.mem.read s.config.cycleCounterAddr).toNat + 1) % 65536 ∧
        CellsSameBut [s.config.cycleCounterAddr] u t) ∧
      (s.config.cycleCounterEnabled = false → t.mem = u.mem)

/-- The bump at the other place R111 gives it: before the fetch the counter cell goes up by 1 modulo 65,536 and nothing
else changes, wherever PC stands; the iteration then fetches from and executes in that state, and no bump follows the
execution. A fetch of the counter cell itself sees the new count (40_dispatcher.md R111, R116, the spec's decision D9,
notes/assumptions/8.md). -/
def Obligations.CounterBumpedBeforeFetchIsFetched : Prop :=
  ∀ s : State, AtLoop s → s.mem.wf = true → s.config.cycleCounterEnabled = true →
    s.config.cycleCounterPhase = .beforeFetch →
    ∃ b : State, b.setMem s.mem = s ∧ CellsSameBut [s.config.cycleCounterAddr] s b ∧
      (b.mem.read s.config.cycleCounterAddr).toNat = ((s.mem.read s.config.cycleCounterAddr).toNat + 1) % 65536 ∧
      (s.pc = s.config.cycleCounterAddr → s.pc ≠ s.config.kbsrAddr → (fetch b).1 = s.mem.read s.pc + 1#16) ∧
      ∃ t, exec (decode (fetch b).1) (fetch b).2 = .next t ∧
        step s = .next (if t.phase = .loopCheck then t.setIr none else t)

/-- 40_dispatcher.md R110: run() sets RUNNING true and then runs iterations while RUNNING is true; RUNNING is tested
only at the loop check, never inside an iteration, so that no handler depends on it; then run() returns. -/
def Obligations.RunLoopTestsRunningBeforeEachIteration : Prop :=
  (∀ s : State, s.phase = .beforeRun → ∃ t, step s = .next t ∧ t.running = true ∧ t.phase = .loopCheck ∧
    (t.setRunning s.running).setPhase .beforeRun = s) ∧
  (∀ s : State, AtLoop s → step s = iterate s) ∧
  (∀ s : State, s.phase = .loopCheck → s.running = false → step s = .next (s.setPhase .ended)) ∧
  (∀ (i : Instr) (s : State) (b : Bool) (t t' : State), exec i s = .next t →
    exec i (s.setRunning b) = .next t' → SameButRunning t t')

/-- 40_dispatcher.md R120: clearing RUNNING does not stop the iteration that clears it. A handler that leaves RUNNING
false is followed by the after-execute bump as any other, and the loop ends at its next check; HALT clears RUNNING and
so does an `Interrupted` answer at every request, GETC and IN, waiting or not, the reads of LD, LDR, LDI and STI,
intercepted string reads, and the fetch, and each of those instructions completes: the loads write DR and COND from the
cleared status, STI stores, the string ends. The cleared status is the spec's decision D12 (notes/assumptions/22.md),
that those reads poll its decisions D22 (notes/assumptions/24.md) and D17 (notes/assumptions/11.md). -/
def Obligations.ClearingRunningCompletesTheIteration : Prop :=
  (∀ s u : State, AtLoop s → s.pc ≠ s.config.kbsrAddr →
    exec (decode ((bumpAt .beforeFetch s).mem.read s.pc)) (handlerStart s) = .next u → u.phase = .loopCheck →
    u.running = false → ∃ t, step s = .next t ∧ t.running = false ∧ t.phase = .loopCheck ∧ t.pc = u.pc ∧
      (∀ r, t.reg r = u.reg r) ∧ t.mem = (bumpAt .afterExecute u).mem ∧ step t = .next (t.setPhase .ended)) ∧
  (∀ s : State, ∃ u, exec .halt s = .next u ∧ u.running = false ∧ u.phase = s.phase) ∧
  (∀ (i : Instr) (s : State) (rest : List InputAnswer), s.input = .interrupted :: rest → i = .getc ∨ i = .inp →
    ∃ u, exec i s = .next u ∧ u.running = false ∧ u.phase = .loopCheck ∧ u.pc = s.pc ∧
      u.out = s.out ++ (if i = .inp then s.config.inPrompt else [])) ∧
  (∀ (s : State) (rest : List InputAnswer), s.phase = .waitGetc ∨ s.phase = .waitIn →
    s.input = .interrupted :: rest → ∃ t, step s = .next t ∧ t.running = false ∧ t.phase = .loopCheck ∧
      t.pc = s.pc ∧ t.out = s.out ∧ t.mem = (bumpAt .afterExecute s).mem ∧ step t = .next (t.setPhase .ended)) ∧
  (∀ (i : Instr) (s : State) (rest : List InputAnswer) (draws : Nat), s.mem.wf = true → s.phase = .loopCheck →
    PollAnswer .interrupted rest draws s →
    ((∃ d f, i = .ld d f ∧ pcRelative f s = s.config.kbsrAddr) ∨
      (∃ d b f, i = .ldr d b f ∧ baseOffset b f s = s.config.kbsrAddr) ∨
      (∃ d f, i = .ldi d f ∧ (pcRelative f s = s.config.kbsrAddr ∨ s.mem.read (pcRelative f s) = s.config.kbsrAddr)) ∨
      (∃ r f, i = .sti r f ∧ pcRelative f s = s.config.kbsrAddr) ∨
      ((i = .puts ∨ i = .putsp) ∧ s.config.stringReadsIntercepted = true ∧ ∃ k < 65536,
        s.reg 0 + BitVec.ofNat 16 k = s.config.kbsrAddr ∧
        ∀ j < k, s.mem.read (s.reg 0 + BitVec.ofNat 16 j) ≠ 0#16)) →
    ∃ u, exec i s = .next u ∧ u.running = false ∧ u.phase = .loopCheck ∧ u.pc = s.pc ∧
      (∀ d f, i = .ld d f → u.reg d = 0#16 ∧ u.cond = .z) ∧ (∀ d b f, i = .ldr d b f → u.reg d = 0#16 ∧ u.cond = .z) ∧
      (∀ d f, i = .ldi d f → pcRelative f s ≠ s.config.kbsrAddr → u.reg d = 0#16 ∧ u.cond = .z) ∧
      (∀ d f, i = .ldi d f → pcRelative f s = s.config.kbsrAddr → s.config.kbsrAddr ≠ 0#16 →
        u.reg d = s.mem.read 0#16 ∧ SignOf (u.reg d) u.cond) ∧
      (∀ r f, i = .sti r f → u.mem.read 0#16 = s.reg r)) ∧
  (∀ (s : State) (rest : List InputAnswer) (draws : Nat), AtLoop s → s.mem.wf = true → s.pc = s.config.kbsrAddr →
    PollAnswer .interrupted rest draws s → ∃ t, step s = .next t ∧ t.running = false ∧ t.phase = .loopCheck ∧
      t.pc = s.pc + 1#16 ∧ step t = .next (t.setPhase .ended))

/-- After run() has returned nothing wakes the core: the state is the final state (60_exceptions.md R251). A second run()
is not modelled (notes/assumptions/19.md), so the ended state stays as it is. -/
def Obligations.EndedCoreStaysEnded : Prop :=
  ∀ (s : State) (k : Nat), s.phase = .ended → Host.Core.run Sys2Proof.core k s = .next s

/-- A store is seen by the next fetch: after ST to the next cell, the next iteration executes the word stored
(20_memory.md R66, 70_reset_and_hazards.md R276). -/
def Obligations.FetchSeesTheEarlierStore : Prop :=
  ∀ (s : State) (sr : RegIndex), AtLoop s → s.mem.wf = true → s.pc ≠ s.config.kbsrAddr →
    s.pc + 1#16 ≠ s.config.kbsrAddr → s.pc + 1#16 ≠ s.config.cycleCounterAddr →
    s.config.cycleCounterPhase = .afterExecute → decode (s.mem.read s.pc) = .st sr 0#9 →
    ∃ t, step s = .next t ∧ AtLoop t ∧ t.pc = s.pc + 1#16 ∧ (fetch t).1 = s.reg sr ∧
      step t = completeIteration (exec (decode (s.reg sr)) (fetch t).2)

/-- Placing a word with `withFetchWord` makes the very next step run exactly its instruction, wherever PC stands and
whatever the parameters; one cell of memory and, where PC stands at KBSR, PC move for it (notes/assumptions/20.md). -/
def Obligations.PlacedWordIsTheNextInstruction : Prop :=
  ∀ (s : State) (w : Word), s.mem.wf = true →
    let p := s.withFetchWord 16 w.toNat
    step p = completeIteration (exec (decode w) (handlerStart p)) ∧ (handlerStart p).pc = p.pc + 1#16 ∧
      (∀ r, p.reg r = s.reg r) ∧ p.cond = s.cond ∧ CellsSameBut [p.pc] s p ∧
      (s.pc ≠ s.config.kbsrAddr → p.pc = s.pc)

/-! ### Whole-machine rules -/

/-- No operation raises a fatal error (00_scope.md R16, 60_exceptions.md R240): from every state a step answers a next
state, and so does every instruction; no run stops. -/
def Obligations.NoOperationEverStopsTheMachine : Prop :=
  (∀ (i : Instr) (s : State), ∃ t, exec i s = .next t) ∧ (∀ s : State, ∃ t, step s = .next t) ∧
  (∀ (k : Nat) (s : State), ∃ t, Host.Core.run Sys2Proof.core k s = .next t)

/-- The invariant holds after reset, whatever the parameters, and after a load of a canonical memory. -/
def Obligations.ResetMeetsTheInvariant : Prop :=
  Inv State.reset ∧ (∀ c, Inv (State.resetWith c)) ∧
  (∀ (c : Config) (m : Memory) (l : List InputAnswer), m.wf = true → Inv (State.start c m l))

/-- Every step keeps the invariant: memory stays canonical, an instruction word is held exactly within an iteration,
RUNNING is false before and after the run. -/
def Obligations.EveryStepKeepsTheInvariant : Prop :=
  ∀ s t : State, Inv s → step s = .next t → Inv t

/-- The parameters are fixed for a run (00_scope.md R7): no step changes them. -/
def Obligations.NoStepChangesTheParameters : Prop :=
  ∀ s t : State, step s = .next t → t.config = s.config

/-- OUT and DIAG are append-only, and input answers are consumed in order, over every run (10_state.md R37,
00_scope.md R12, R14). -/
def Obligations.StreamsOnlyGrowAndInputIsConsumedInOrder : Prop :=
  ∀ (k : Nat) (s t : State), Host.Core.run Sys2Proof.core k s = .next t →
    s.out <+: t.out ∧ s.diag <+: t.diag ∧ t.input <:+ s.input

/-- RUNNING is cleared by nothing but HALT and an `Interrupted` answer (10_state.md R30, 40_dispatcher.md R121): a step
that clears it executed HALT, or took an `Interrupted` answer, listed or free. -/
def Obligations.OnlyHaltAndInterruptsClearRunning : Prop :=
  ∀ s t : State, step s = .next t → s.running = true → t.running = false →
    (s.phase = .loopCheck ∧ decode (fetch (bumpAt .beforeFetch s)).1 = .halt) ∨
    (∃ taken, s.input = taken ++ t.input ∧ .interrupted ∈ taken) ∨
    (∃ n, s.draws ≤ n ∧ n < t.draws ∧ Config.pollBeyond n = .interrupted)

/-- 40_dispatcher.md R123: a diagnostic report changes no register, flag, memory cell, PC or RUNNING; an iteration that
reports is otherwise an ordinary one and bumps the counter; what a step does to everything else does not depend on what
DIAG holds. -/
def Obligations.DiagnosticsChangeNothingElse : Prop :=
  (∀ (s : State) (k : DiagKind), (s.report k).withDiag s.diag = s) ∧
  (∀ s u : State, AtLoop s → s.mem.wf = true → s.config.cycleCounterPhase = .afterExecute →
    s.config.cycleCounterEnabled = true → exec (decode (fetch s).1) (fetch s).2 = .next u → u.phase = .loopCheck →
    u.diag ≠ s.diag →
    ∃ t, step s = .next t ∧ t.diag = u.diag ∧ (∀ r, t.reg r = u.reg r) ∧ t.cond = u.cond ∧ t.pc = u.pc ∧
      t.running = u.running ∧ t.out = u.out ∧ t.input = u.input ∧ t.phase = .loopCheck ∧
      t.mem.read s.config.cycleCounterAddr = u.mem.read s.config.cycleCounterAddr + 1#16 ∧
      CellsSameBut [s.config.cycleCounterAddr] u t) ∧
  (∀ (s : State) (d : List DiagKind) (t t' : State), step s = .next t → step (s.withDiag d) = .next t' →
    t.withDiag [] = t'.withDiag [])

/-- The output stream cannot be read by a program: what a step does to everything else does not depend on what OUT
holds (44_trap.md R230, 00_scope.md R14). -/
def Obligations.OutputIsNeverReadBack : Prop :=
  ∀ (s : State) (o : List Byte) (t t' : State), step s = .next t → step (s.withOut o) = .next t' →
    t.withOut [] = t'.withOut []

/-! ### Reset and the initial memory -/

/-- The reset state (70_reset_and_hazards.md R270) for any parameters: registers and memory zeroed, PC 0x3000, COND at
`COND_RESET` (the spec's decision D7), RUNNING false, the streams empty (D29), no instruction word. -/
def Obligations.ResetLeavesTheStatedState : Prop :=
  ∀ c : Config, let s := State.resetWith c
    (∀ r, s.reg r = 0#16) ∧ s.pc = 0x3000#16 ∧ s.cond = c.condReset ∧ s.running = false ∧
    (∀ a, s.mem.read a = 0#16) ∧ s.out = [] ∧ s.diag = [] ∧ s.ir = none ∧ s.config = c ∧
    State.reset = State.resetWith defaultConfig

/-- The start state of a run of an image (70_reset_and_hazards.md R271, R272, 20_memory.md R56, the spec's decision D26;
notes/assumptions/27.md): word i of the big-endian file at origin + i, every other cell 0x0000, and PC, the registers,
COND and RUNNING as reset left them; the last clause says that of every field but memory and the input answers `l`, a
parameter of the run. The loader is outside the core, and that the memory it leaves has the canonical form is the model's
own. -/
def Obligations.ImageFillsItsCellsAndNoOther : Prop :=
  ∀ (o : Word) (ws : List Word) (c : Config) (l : List InputAnswer), o.toNat + ws.length ≤ 65536 →
    ∃ s, State.load c ((o :: ws).flatMap (fun w => [highByte w, lowByte w])) l = some s ∧ s.mem.wf = true ∧
      (∀ i (h : i < ws.length), s.mem.read (o + BitVec.ofNat 16 i) = ws[i]) ∧
      (∀ a : Word, a.toNat < o.toNat ∨ o.toNat + ws.length ≤ a.toNat → s.mem.read a = 0#16) ∧
      s.pc = 0x3000#16 ∧ (∀ r, s.reg r = 0#16) ∧ s.cond = c.condReset ∧ s.running = false ∧
      s = { State.resetWith c with mem := s.mem, input := l }
end

