-- ==== Sys2Proof/Laws/Memory.lean ====
section
/-! SUPPORT. The laws of the memory array: read after write, the canonical form is kept, and a canonical memory is
determined by what its cells read. -/

namespace Sys2Proof.Machine

theorem cellsFrom_cons {lo k : Nat} {w : Word} {rest : Memory} :
    cellsFrom lo ((k, w) :: rest) = true ↔ lo ≤ k ∧ k < memCells ∧ w ≠ unlisted ∧ cellsFrom (k + 1) rest = true := by
  simp [cellsFrom, and_assoc]

/-- A list of cells that begins at a higher key is also one that begins lower. -/
theorem cellsFrom_mono {lo lo' : Nat} (hle : lo' ≤ lo) {m : Memory} (h : cellsFrom lo m = true) :
    cellsFrom lo' m = true := by
  cases m with
  | nil => rfl
  | cons c rest =>
    obtain ⟨k, w⟩ := c
    rw [cellsFrom_cons] at h ⊢
    exact ⟨hle.trans h.1, h.2⟩

/-- Keys below the first one are unlisted. -/
theorem lookupCell_below {lo a : Nat} {m : Memory} (h : cellsFrom lo m = true) (ha : a < lo) :
    lookupCell m a = unlisted := by
  induction m generalizing lo with
  | nil => rfl
  | cons c rest ih =>
    obtain ⟨k, w⟩ := c
    rw [cellsFrom_cons] at h
    rw [lookupCell, if_neg (by omega)]
    exact ih h.2.2.2 (by omega)

/-- Read after write, over keys: the key written reads the value, every other key reads as before. -/
theorem lookupCell_updateCell {lo : Nat} {m : Memory} (h : cellsFrom lo m = true) (a b : Nat) (v : Word) :
    lookupCell (updateCell m a v) b = if b = a then v else lookupCell m b := by
  induction m generalizing lo with
  | nil =>
    by_cases hv : v = unlisted
    · simp [updateCell, lookupCell, hv]
    · by_cases hb : b = a <;> simp [updateCell, lookupCell, hv, hb, eq_comm (a := a)]
  | cons c rest ih =>
    obtain ⟨k, w⟩ := c
    rw [cellsFrom_cons] at h
    have hrest := h.2.2.2
    by_cases hka : k < a
    · rw [updateCell, if_pos hka, lookupCell, lookupCell, ih hrest]
      by_cases hkb : k = b
      · rw [if_pos hkb, if_neg (by omega), if_pos hkb]
      · rw [if_neg hkb, if_neg hkb]
    · by_cases hke : k = a
      · subst hke
        by_cases hv : v = unlisted
        · rw [updateCell, if_neg hka, if_pos rfl, if_pos hv]
          by_cases hb : b = k
          · rw [if_pos hb, hb, hv, lookupCell_below hrest (by omega)]
          · rw [if_neg hb, lookupCell, if_neg (by omega)]
        · rw [updateCell, if_neg hka, if_pos rfl, if_neg hv]
          by_cases hb : b = k
          · simp [lookupCell, hb]
          · rw [lookupCell, lookupCell, if_neg (by omega), if_neg hb, if_neg (by omega)]
      · have hlt : a < k := by omega
        by_cases hv : v = unlisted
        · rw [updateCell, if_neg hka, if_neg hke, if_pos hv]
          by_cases hb : b = a
          · have hwf : cellsFrom k ((k, w) :: rest) = true := cellsFrom_cons.2 ⟨le_refl k, h.2⟩
            rw [if_pos hb, hb, hv, lookupCell_below hwf hlt]
          · rw [if_neg hb]
        · rw [updateCell, if_neg hka, if_neg hke, if_neg hv, lookupCell]
          by_cases hb : b = a
          · rw [if_pos hb.symm, if_pos hb]
          · rw [if_neg (by omega), if_neg hb]

/-- A write keeps the canonical form. -/
theorem cellsFrom_updateCell {lo : Nat} {m : Memory} (h : cellsFrom lo m = true) {a : Nat} (hlo : lo ≤ a)
    (ha : a < memCells) (v : Word) : cellsFrom lo (updateCell m a v) = true := by
  induction m generalizing lo with
  | nil =>
    by_cases hv : v = unlisted
    · simp [updateCell, cellsFrom, hv]
    · simp [updateCell, cellsFrom, hv, hlo, ha]
  | cons c rest ih =>
    obtain ⟨k, w⟩ := c
    rw [cellsFrom_cons] at h
    obtain ⟨hk, hkm, hw, hrest⟩ := h
    by_cases hka : k < a
    · rw [updateCell, if_pos hka, cellsFrom_cons]
      exact ⟨hk, hkm, hw, ih hrest (by omega)⟩
    · by_cases hke : k = a
      · subst hke
        by_cases hv : v = unlisted
        · rw [updateCell, if_neg hka, if_pos rfl, if_pos hv]
          exact cellsFrom_mono (by omega) hrest
        · rw [updateCell, if_neg hka, if_pos rfl, if_neg hv, cellsFrom_cons]
          exact ⟨hk, hkm, hv, hrest⟩
      · by_cases hv : v = unlisted
        · rw [updateCell, if_neg hka, if_neg hke, if_pos hv, cellsFrom_cons]
          exact ⟨hk, hkm, hw, hrest⟩
        · rw [updateCell, if_neg hka, if_neg hke, if_neg hv, cellsFrom_cons, cellsFrom_cons]
          exact ⟨hlo, ha, hv, by omega, hkm, hw, hrest⟩

/-- Two canonical lists that read alike at every key are equal. -/
theorem cells_ext {lo : Nat} {m m' : Memory} (h : cellsFrom lo m = true) (h' : cellsFrom lo m' = true)
    (heq : ∀ a, lookupCell m a = lookupCell m' a) : m = m' := by
  induction m generalizing lo m' with
  | nil =>
    cases m' with
    | nil => rfl
    | cons c' rest' =>
      obtain ⟨k', w'⟩ := c'
      have hk := heq k'
      rw [cellsFrom_cons] at h'
      simp only [lookupCell, if_pos] at hk
      exact absurd hk.symm h'.2.2.1
  | cons c rest ih =>
    obtain ⟨k, w⟩ := c
    cases m' with
    | nil =>
      have hk := heq k
      rw [cellsFrom_cons] at h
      simp only [lookupCell, if_pos] at hk
      exact absurd hk h.2.2.1
    | cons c' rest' =>
      obtain ⟨k', w'⟩ := c'
      rw [cellsFrom_cons] at h h'
      have hkk : k = k' := by
        by_contra hne
        rcases Nat.lt_or_gt_of_ne hne with hlt | hgt
        · have hk := heq k
          simp only [lookupCell, if_pos, if_neg (Ne.symm hne)] at hk
          exact h.2.2.1 (hk.trans (lookupCell_below h'.2.2.2 (by omega)))
        · have hk := heq k'
          simp only [lookupCell, if_pos, if_neg hne] at hk
          exact h'.2.2.1 (hk.symm.trans (lookupCell_below h.2.2.2 (by omega)))
      subst hkk
      have hw : w = w' := by simpa [lookupCell] using heq k
      subst hw
      have hrest : rest = rest' := by
        refine ih h.2.2.2 h'.2.2.2 fun a => ?_
        by_cases ha : a = k
        · rw [ha, lookupCell_below h.2.2.2 (by omega), lookupCell_below h'.2.2.2 (by omega)]
        · simpa [lookupCell, Ne.symm ha] using heq a
      rw [hrest]

/-! ### Over addresses -/

theorem Memory.read_write {m : Memory} (h : m.wf = true) (a b v : Word) :
    (m.write a v).read b = if b = a then v else m.read b := by
  simp only [Memory.read, Memory.write, lookupCell_updateCell h, BitVec.toNat_inj]

theorem Memory.read_write_same {m : Memory} (h : m.wf = true) (a v : Word) : (m.write a v).read a = v := by
  rw [Memory.read_write h, if_pos rfl]

theorem Memory.read_write_other {m : Memory} (h : m.wf = true) {a b : Word} (hne : b ≠ a) (v : Word) :
    (m.write a v).read b = m.read b := by
  rw [Memory.read_write h, if_neg hne]

theorem Memory.wf_write {m : Memory} (h : m.wf = true) (a v : Word) : (m.write a v).wf = true :=
  cellsFrom_updateCell h (Nat.zero_le _) a.isLt v

theorem Memory.wf_nil : Memory.wf [] = true := rfl

@[simp] theorem Memory.read_nil (a : Word) : Memory.read [] a = 0#16 := rfl

end Sys2Proof.Machine
end

