-- ==== Sys2Proof/Laws/State.lean ====
section
/-! SUPPORT. One lemma for each field of the state under each update of it: no later proof unfolds a record update. -/

namespace Sys2Proof.Machine

variable (s : State)

/-! ### setReg -/

@[simp] theorem State.pc_setReg (i : RegIndex) (v : Word) : (s.setReg i v).pc = s.pc := rfl
@[simp] theorem State.cond_setReg (i : RegIndex) (v : Word) : (s.setReg i v).cond = s.cond := rfl
@[simp] theorem State.running_setReg (i : RegIndex) (v : Word) : (s.setReg i v).running = s.running := rfl
@[simp] theorem State.mem_setReg (i : RegIndex) (v : Word) : (s.setReg i v).mem = s.mem := rfl
@[simp] theorem State.out_setReg (i : RegIndex) (v : Word) : (s.setReg i v).out = s.out := rfl
@[simp] theorem State.diag_setReg (i : RegIndex) (v : Word) : (s.setReg i v).diag = s.diag := rfl
@[simp] theorem State.ir_setReg (i : RegIndex) (v : Word) : (s.setReg i v).ir = s.ir := rfl
@[simp] theorem State.phase_setReg (i : RegIndex) (v : Word) : (s.setReg i v).phase = s.phase := rfl
@[simp] theorem State.input_setReg (i : RegIndex) (v : Word) : (s.setReg i v).input = s.input := rfl
@[simp] theorem State.config_setReg (i : RegIndex) (v : Word) : (s.setReg i v).config = s.config := rfl
@[simp] theorem State.draws_setReg (i : RegIndex) (v : Word) : (s.setReg i v).draws = s.draws := rfl
@[simp] theorem State.reg_setReg (i : RegIndex) (v : Word) (j : RegIndex) :
    (s.setReg i v).reg j = if j = i then v else s.reg j := by
  simp only [State.reg, State.setReg, Vector.getElem_set, Fin.ext_iff, eq_comm (a := i.val)]

/-! ### setPc -/

@[simp] theorem State.pc_setPc (v : Word) : (s.setPc v).pc = v := rfl
@[simp] theorem State.cond_setPc (v : Word) : (s.setPc v).cond = s.cond := rfl
@[simp] theorem State.running_setPc (v : Word) : (s.setPc v).running = s.running := rfl
@[simp] theorem State.mem_setPc (v : Word) : (s.setPc v).mem = s.mem := rfl
@[simp] theorem State.out_setPc (v : Word) : (s.setPc v).out = s.out := rfl
@[simp] theorem State.diag_setPc (v : Word) : (s.setPc v).diag = s.diag := rfl
@[simp] theorem State.ir_setPc (v : Word) : (s.setPc v).ir = s.ir := rfl
@[simp] theorem State.phase_setPc (v : Word) : (s.setPc v).phase = s.phase := rfl
@[simp] theorem State.input_setPc (v : Word) : (s.setPc v).input = s.input := rfl
@[simp] theorem State.config_setPc (v : Word) : (s.setPc v).config = s.config := rfl
@[simp] theorem State.draws_setPc (v : Word) : (s.setPc v).draws = s.draws := rfl
@[simp] theorem State.reg_setPc (v : Word) (j : RegIndex) : (s.setPc v).reg j = s.reg j := rfl

/-! ### setCond -/

@[simp] theorem State.pc_setCond (c : Cond) : (s.setCond c).pc = s.pc := rfl
@[simp] theorem State.cond_setCond (c : Cond) : (s.setCond c).cond = c := rfl
@[simp] theorem State.running_setCond (c : Cond) : (s.setCond c).running = s.running := rfl
@[simp] theorem State.mem_setCond (c : Cond) : (s.setCond c).mem = s.mem := rfl
@[simp] theorem State.out_setCond (c : Cond) : (s.setCond c).out = s.out := rfl
@[simp] theorem State.diag_setCond (c : Cond) : (s.setCond c).diag = s.diag := rfl
@[simp] theorem State.ir_setCond (c : Cond) : (s.setCond c).ir = s.ir := rfl
@[simp] theorem State.phase_setCond (c : Cond) : (s.setCond c).phase = s.phase := rfl
@[simp] theorem State.input_setCond (c : Cond) : (s.setCond c).input = s.input := rfl
@[simp] theorem State.config_setCond (c : Cond) : (s.setCond c).config = s.config := rfl
@[simp] theorem State.draws_setCond (c : Cond) : (s.setCond c).draws = s.draws := rfl
@[simp] theorem State.reg_setCond (c : Cond) (j : RegIndex) : (s.setCond c).reg j = s.reg j := rfl

/-! ### setRunning -/

@[simp] theorem State.pc_setRunning (b : Bool) : (s.setRunning b).pc = s.pc := rfl
@[simp] theorem State.cond_setRunning (b : Bool) : (s.setRunning b).cond = s.cond := rfl
@[simp] theorem State.running_setRunning (b : Bool) : (s.setRunning b).running = b := rfl
@[simp] theorem State.mem_setRunning (b : Bool) : (s.setRunning b).mem = s.mem := rfl
@[simp] theorem State.out_setRunning (b : Bool) : (s.setRunning b).out = s.out := rfl
@[simp] theorem State.diag_setRunning (b : Bool) : (s.setRunning b).diag = s.diag := rfl
@[simp] theorem State.ir_setRunning (b : Bool) : (s.setRunning b).ir = s.ir := rfl
@[simp] theorem State.phase_setRunning (b : Bool) : (s.setRunning b).phase = s.phase := rfl
@[simp] theorem State.input_setRunning (b : Bool) : (s.setRunning b).input = s.input := rfl
@[simp] theorem State.config_setRunning (b : Bool) : (s.setRunning b).config = s.config := rfl
@[simp] theorem State.draws_setRunning (b : Bool) : (s.setRunning b).draws = s.draws := rfl
@[simp] theorem State.reg_setRunning (b : Bool) (j : RegIndex) : (s.setRunning b).reg j = s.reg j := rfl

/-! ### setMem -/

@[simp] theorem State.pc_setMem (m : Memory) : (s.setMem m).pc = s.pc := rfl
@[simp] theorem State.cond_setMem (m : Memory) : (s.setMem m).cond = s.cond := rfl
@[simp] theorem State.running_setMem (m : Memory) : (s.setMem m).running = s.running := rfl
@[simp] theorem State.mem_setMem (m : Memory) : (s.setMem m).mem = m := rfl
@[simp] theorem State.out_setMem (m : Memory) : (s.setMem m).out = s.out := rfl
@[simp] theorem State.diag_setMem (m : Memory) : (s.setMem m).diag = s.diag := rfl
@[simp] theorem State.ir_setMem (m : Memory) : (s.setMem m).ir = s.ir := rfl
@[simp] theorem State.phase_setMem (m : Memory) : (s.setMem m).phase = s.phase := rfl
@[simp] theorem State.input_setMem (m : Memory) : (s.setMem m).input = s.input := rfl
@[simp] theorem State.config_setMem (m : Memory) : (s.setMem m).config = s.config := rfl
@[simp] theorem State.draws_setMem (m : Memory) : (s.setMem m).draws = s.draws := rfl
@[simp] theorem State.reg_setMem (m : Memory) (j : RegIndex) : (s.setMem m).reg j = s.reg j := rfl

/-! ### setIr -/

@[simp] theorem State.pc_setIr (w : Option Word) : (s.setIr w).pc = s.pc := rfl
@[simp] theorem State.cond_setIr (w : Option Word) : (s.setIr w).cond = s.cond := rfl
@[simp] theorem State.running_setIr (w : Option Word) : (s.setIr w).running = s.running := rfl
@[simp] theorem State.mem_setIr (w : Option Word) : (s.setIr w).mem = s.mem := rfl
@[simp] theorem State.out_setIr (w : Option Word) : (s.setIr w).out = s.out := rfl
@[simp] theorem State.diag_setIr (w : Option Word) : (s.setIr w).diag = s.diag := rfl
@[simp] theorem State.ir_setIr (w : Option Word) : (s.setIr w).ir = w := rfl
@[simp] theorem State.phase_setIr (w : Option Word) : (s.setIr w).phase = s.phase := rfl
@[simp] theorem State.input_setIr (w : Option Word) : (s.setIr w).input = s.input := rfl
@[simp] theorem State.config_setIr (w : Option Word) : (s.setIr w).config = s.config := rfl
@[simp] theorem State.draws_setIr (w : Option Word) : (s.setIr w).draws = s.draws := rfl
@[simp] theorem State.reg_setIr (w : Option Word) (j : RegIndex) : (s.setIr w).reg j = s.reg j := rfl

/-! ### setPhase -/

@[simp] theorem State.pc_setPhase (p : Phase) : (s.setPhase p).pc = s.pc := rfl
@[simp] theorem State.cond_setPhase (p : Phase) : (s.setPhase p).cond = s.cond := rfl
@[simp] theorem State.running_setPhase (p : Phase) : (s.setPhase p).running = s.running := rfl
@[simp] theorem State.mem_setPhase (p : Phase) : (s.setPhase p).mem = s.mem := rfl
@[simp] theorem State.out_setPhase (p : Phase) : (s.setPhase p).out = s.out := rfl
@[simp] theorem State.diag_setPhase (p : Phase) : (s.setPhase p).diag = s.diag := rfl
@[simp] theorem State.ir_setPhase (p : Phase) : (s.setPhase p).ir = s.ir := rfl
@[simp] theorem State.phase_setPhase (p : Phase) : (s.setPhase p).phase = p := rfl
@[simp] theorem State.input_setPhase (p : Phase) : (s.setPhase p).input = s.input := rfl
@[simp] theorem State.config_setPhase (p : Phase) : (s.setPhase p).config = s.config := rfl
@[simp] theorem State.draws_setPhase (p : Phase) : (s.setPhase p).draws = s.draws := rfl
@[simp] theorem State.reg_setPhase (p : Phase) (j : RegIndex) : (s.setPhase p).reg j = s.reg j := rfl

/-! ### setInput -/

@[simp] theorem State.pc_setInput (l : List InputAnswer) : (s.setInput l).pc = s.pc := rfl
@[simp] theorem State.cond_setInput (l : List InputAnswer) : (s.setInput l).cond = s.cond := rfl
@[simp] theorem State.running_setInput (l : List InputAnswer) : (s.setInput l).running = s.running := rfl
@[simp] theorem State.mem_setInput (l : List InputAnswer) : (s.setInput l).mem = s.mem := rfl
@[simp] theorem State.out_setInput (l : List InputAnswer) : (s.setInput l).out = s.out := rfl
@[simp] theorem State.diag_setInput (l : List InputAnswer) : (s.setInput l).diag = s.diag := rfl
@[simp] theorem State.ir_setInput (l : List InputAnswer) : (s.setInput l).ir = s.ir := rfl
@[simp] theorem State.phase_setInput (l : List InputAnswer) : (s.setInput l).phase = s.phase := rfl
@[simp] theorem State.input_setInput (l : List InputAnswer) : (s.setInput l).input = l := rfl
@[simp] theorem State.config_setInput (l : List InputAnswer) : (s.setInput l).config = s.config := rfl
@[simp] theorem State.draws_setInput (l : List InputAnswer) : (s.setInput l).draws = s.draws := rfl
@[simp] theorem State.reg_setInput (l : List InputAnswer) (j : RegIndex) : (s.setInput l).reg j = s.reg j := rfl

/-! ### emit -/

@[simp] theorem State.pc_emit (b : List Byte) : (s.emit b).pc = s.pc := rfl
@[simp] theorem State.cond_emit (b : List Byte) : (s.emit b).cond = s.cond := rfl
@[simp] theorem State.running_emit (b : List Byte) : (s.emit b).running = s.running := rfl
@[simp] theorem State.mem_emit (b : List Byte) : (s.emit b).mem = s.mem := rfl
@[simp] theorem State.out_emit (b : List Byte) : (s.emit b).out = s.out ++ b := rfl
@[simp] theorem State.diag_emit (b : List Byte) : (s.emit b).diag = s.diag := rfl
@[simp] theorem State.ir_emit (b : List Byte) : (s.emit b).ir = s.ir := rfl
@[simp] theorem State.phase_emit (b : List Byte) : (s.emit b).phase = s.phase := rfl
@[simp] theorem State.input_emit (b : List Byte) : (s.emit b).input = s.input := rfl
@[simp] theorem State.config_emit (b : List Byte) : (s.emit b).config = s.config := rfl
@[simp] theorem State.draws_emit (b : List Byte) : (s.emit b).draws = s.draws := rfl
@[simp] theorem State.reg_emit (b : List Byte) (j : RegIndex) : (s.emit b).reg j = s.reg j := rfl

/-! ### report -/

@[simp] theorem State.pc_report (k : DiagKind) : (s.report k).pc = s.pc := rfl
@[simp] theorem State.cond_report (k : DiagKind) : (s.report k).cond = s.cond := rfl
@[simp] theorem State.running_report (k : DiagKind) : (s.report k).running = s.running := rfl
@[simp] theorem State.mem_report (k : DiagKind) : (s.report k).mem = s.mem := rfl
@[simp] theorem State.out_report (k : DiagKind) : (s.report k).out = s.out := rfl
@[simp] theorem State.diag_report (k : DiagKind) : (s.report k).diag = s.diag ++ [k] := rfl
@[simp] theorem State.ir_report (k : DiagKind) : (s.report k).ir = s.ir := rfl
@[simp] theorem State.phase_report (k : DiagKind) : (s.report k).phase = s.phase := rfl
@[simp] theorem State.input_report (k : DiagKind) : (s.report k).input = s.input := rfl
@[simp] theorem State.config_report (k : DiagKind) : (s.report k).config = s.config := rfl
@[simp] theorem State.draws_report (k : DiagKind) : (s.report k).draws = s.draws := rfl
@[simp] theorem State.reg_report (k : DiagKind) (j : RegIndex) : (s.report k).reg j = s.reg j := rfl

/-! ### nextDraw -/

@[simp] theorem State.pc_nextDraw : (s.nextDraw).pc = s.pc := rfl
@[simp] theorem State.cond_nextDraw : (s.nextDraw).cond = s.cond := rfl
@[simp] theorem State.running_nextDraw : (s.nextDraw).running = s.running := rfl
@[simp] theorem State.mem_nextDraw : (s.nextDraw).mem = s.mem := rfl
@[simp] theorem State.out_nextDraw : (s.nextDraw).out = s.out := rfl
@[simp] theorem State.diag_nextDraw : (s.nextDraw).diag = s.diag := rfl
@[simp] theorem State.ir_nextDraw : (s.nextDraw).ir = s.ir := rfl
@[simp] theorem State.phase_nextDraw : (s.nextDraw).phase = s.phase := rfl
@[simp] theorem State.input_nextDraw : (s.nextDraw).input = s.input := rfl
@[simp] theorem State.config_nextDraw : (s.nextDraw).config = s.config := rfl
@[simp] theorem State.draws_nextDraw : (s.nextDraw).draws = s.draws + 1 := rfl
@[simp] theorem State.reg_nextDraw (j : RegIndex) : (s.nextDraw).reg j = s.reg j := rfl

/-! ### write -/

@[simp] theorem State.pc_write (a v : Word) : (s.write a v).pc = s.pc := rfl
@[simp] theorem State.cond_write (a v : Word) : (s.write a v).cond = s.cond := rfl
@[simp] theorem State.running_write (a v : Word) : (s.write a v).running = s.running := rfl
@[simp] theorem State.mem_write (a v : Word) : (s.write a v).mem = s.mem.write a v := rfl
@[simp] theorem State.out_write (a v : Word) : (s.write a v).out = s.out := rfl
@[simp] theorem State.diag_write (a v : Word) : (s.write a v).diag = s.diag := rfl
@[simp] theorem State.ir_write (a v : Word) : (s.write a v).ir = s.ir := rfl
@[simp] theorem State.phase_write (a v : Word) : (s.write a v).phase = s.phase := rfl
@[simp] theorem State.input_write (a v : Word) : (s.write a v).input = s.input := rfl
@[simp] theorem State.config_write (a v : Word) : (s.write a v).config = s.config := rfl
@[simp] theorem State.draws_write (a v : Word) : (s.write a v).draws = s.draws := rfl
@[simp] theorem State.reg_write (a v : Word) (j : RegIndex) : (s.write a v).reg j = s.reg j := rfl

/-! ### setCC -/

@[simp] theorem State.pc_setCC (v : Word) : (s.setCC v).pc = s.pc := rfl
@[simp] theorem State.cond_setCC (v : Word) : (s.setCC v).cond = condOf v := rfl
@[simp] theorem State.running_setCC (v : Word) : (s.setCC v).running = s.running := rfl
@[simp] theorem State.mem_setCC (v : Word) : (s.setCC v).mem = s.mem := rfl
@[simp] theorem State.out_setCC (v : Word) : (s.setCC v).out = s.out := rfl
@[simp] theorem State.diag_setCC (v : Word) : (s.setCC v).diag = s.diag := rfl
@[simp] theorem State.ir_setCC (v : Word) : (s.setCC v).ir = s.ir := rfl
@[simp] theorem State.phase_setCC (v : Word) : (s.setCC v).phase = s.phase := rfl
@[simp] theorem State.input_setCC (v : Word) : (s.setCC v).input = s.input := rfl
@[simp] theorem State.config_setCC (v : Word) : (s.setCC v).config = s.config := rfl
@[simp] theorem State.draws_setCC (v : Word) : (s.setCC v).draws = s.draws := rfl
@[simp] theorem State.reg_setCC (v : Word) (j : RegIndex) : (s.setCC v).reg j = s.reg j := rfl

/-! ### setRegCC -/

@[simp] theorem State.pc_setRegCC (i : RegIndex) (v : Word) : (s.setRegCC i v).pc = s.pc := rfl
@[simp] theorem State.cond_setRegCC (i : RegIndex) (v : Word) : (s.setRegCC i v).cond = condOf v := rfl
@[simp] theorem State.running_setRegCC (i : RegIndex) (v : Word) : (s.setRegCC i v).running = s.running := rfl
@[simp] theorem State.mem_setRegCC (i : RegIndex) (v : Word) : (s.setRegCC i v).mem = s.mem := rfl
@[simp] theorem State.out_setRegCC (i : RegIndex) (v : Word) : (s.setRegCC i v).out = s.out := rfl
@[simp] theorem State.diag_setRegCC (i : RegIndex) (v : Word) : (s.setRegCC i v).diag = s.diag := rfl
@[simp] theorem State.ir_setRegCC (i : RegIndex) (v : Word) : (s.setRegCC i v).ir = s.ir := rfl
@[simp] theorem State.phase_setRegCC (i : RegIndex) (v : Word) : (s.setRegCC i v).phase = s.phase := rfl
@[simp] theorem State.input_setRegCC (i : RegIndex) (v : Word) : (s.setRegCC i v).input = s.input := rfl
@[simp] theorem State.config_setRegCC (i : RegIndex) (v : Word) : (s.setRegCC i v).config = s.config := rfl
@[simp] theorem State.draws_setRegCC (i : RegIndex) (v : Word) : (s.setRegCC i v).draws = s.draws := rfl
@[simp] theorem State.reg_setRegCC (i : RegIndex) (v : Word) (j : RegIndex) :
    (s.setRegCC i v).reg j = if j = i then v else s.reg j := by
  simp only [State.reg, State.setRegCC, State.setReg, State.setCC, State.setCond, Vector.getElem_set, Fin.ext_iff, eq_comm (a := i.val)]

/-- Two states are equal when every register and every other field are equal. -/
theorem State.eq_of_fields {s t : State} (hr : ∀ i, t.reg i = s.reg i) (hpc : t.pc = s.pc) (hc : t.cond = s.cond)
    (hrun : t.running = s.running) (hm : t.mem = s.mem) (ho : t.out = s.out) (hd : t.diag = s.diag) (hir : t.ir = s.ir)
    (hp : t.phase = s.phase) (hi : t.input = s.input) (hcf : t.config = s.config) (hdr : t.draws = s.draws) : t = s :=
  State.ext (Vector.ext fun i hi8 => hr ⟨i, hi8⟩) hpc hc hrun hm ho hd hir hp hi hcf hdr

/-- Every register of the reset state is 0 (70_reset_and_hazards.md R270). -/
@[simp] theorem State.reg_resetWith (c : Config) (i : RegIndex) : (State.resetWith c).reg i = 0#16 := by
  simp [State.reg, State.resetWith]

end Sys2Proof.Machine
end

