-- ==== Sys2Proof/Laws/Ops.lean ====
section
/-! SUPPORT. For each shared operation, once, everything it can do: the poll and the blocking request, the keyboard
intercept and the read paths, the fetch, the bump, the end of an iteration and trap entry. -/

namespace Sys2Proof.Machine

/-! ### The input source -/

theorem poll_cons {s : State} {answer : InputAnswer} {rest : List InputAnswer} (h : s.input = answer :: rest) :
    poll s = (answer, s.setInput rest) := by
  simp [poll, h]

theorem poll_nil {s : State} (h : s.input = []) : poll s = (Config.pollBeyond s.draws, s.nextDraw) := by
  simp [poll, h]

/-- What a poll can do: take the next listed answer, or a free one when none is left. -/
theorem poll_cases (s : State) :
    (∃ answer rest, s.input = answer :: rest ∧ poll s = (answer, s.setInput rest)) ∨
    (s.input = [] ∧ poll s = (Config.pollBeyond s.draws, s.nextDraw)) := by
  cases h : s.input with
  | nil => exact .inr ⟨rfl, poll_nil h⟩
  | cons answer rest => exact .inl ⟨answer, rest, rfl, poll_cons h⟩

/-- A blocking request passes over `NoKey`s only, and is never answered `NoKey`. -/
theorem firstAnswer_some {l rest : List InputAnswer} {answer : InputAnswer} (h : firstAnswer l = some (answer, rest)) :
    answer ≠ .noKey ∧ ∃ n, l = List.replicate n .noKey ++ answer :: rest := by
  induction l with
  | nil => simp [firstAnswer] at h
  | cons a l ih =>
    cases a with
    | noKey =>
      obtain ⟨hne, n, hl⟩ := ih h
      exact ⟨hne, n + 1, by simp [hl, List.replicate_succ]⟩
    | key k => simp only [firstAnswer, Option.some.injEq, Prod.mk.injEq] at h; exact ⟨by simp [← h.1], 0, by simp [h.1, h.2]⟩
    | interrupted => simp only [firstAnswer, Option.some.injEq, Prod.mk.injEq] at h; exact ⟨by simp [← h.1], 0, by simp [h.1, h.2]⟩
    | error => simp only [firstAnswer, Option.some.injEq, Prod.mk.injEq] at h; exact ⟨by simp [← h.1], 0, by simp [h.1, h.2]⟩

theorem firstAnswer_none_iff {l : List InputAnswer} : firstAnswer l = none ↔ ∀ a ∈ l, a = .noKey := by
  induction l with
  | nil => simp [firstAnswer]
  | cons a l ih => cases a <;> simp [firstAnswer, ih]

theorem readBlocking_some {s : State} {answer : InputAnswer} {rest : List InputAnswer}
    (h : firstAnswer s.input = some (answer, rest)) : readBlocking s = (some answer, s.setInput rest) := by
  simp [readBlocking, h]

theorem readBlocking_none {s : State} (h : firstAnswer s.input = none) : readBlocking s = (none, s.setInput []) := by
  simp [readBlocking, h]

/-! ### The keyboard intercept, for each answer of the poll (20_memory.md R52) -/

theorem keyboardIntercept_key {s s' : State} {k : Byte} (h : poll s = (.key k, s')) :
    keyboardIntercept s = (s'.write s.config.kbsrAddr kbsrReady).write s'.config.kbdrAddr (zext k) := by
  simp [keyboardIntercept, h]

theorem keyboardIntercept_noKey {s s' : State} (h : poll s = (.noKey, s')) :
    keyboardIntercept s = s'.write s.config.kbsrAddr 0#16 := by
  simp [keyboardIntercept, h]

theorem keyboardIntercept_interrupted {s s' : State} (h : poll s = (.interrupted, s')) :
    keyboardIntercept s = (s'.write s.config.kbsrAddr 0#16).setRunning false := by
  simp [keyboardIntercept, h]

theorem keyboardIntercept_error {s s' : State} (h : poll s = (.error, s')) :
    keyboardIntercept s = (s'.report .inputError).write s.config.kbsrAddr 0#16 := by
  simp [keyboardIntercept, h]

/-! ### What the read paths leave alone -/

section
variable (s : State) (a : Word)

@[simp] theorem poll_pc : (poll s).2.pc = s.pc := by
  simp only [poll]; split <;> rfl
@[simp] theorem poll_cond : (poll s).2.cond = s.cond := by
  simp only [poll]; split <;> rfl
@[simp] theorem poll_running : (poll s).2.running = s.running := by
  simp only [poll]; split <;> rfl
@[simp] theorem poll_mem : (poll s).2.mem = s.mem := by
  simp only [poll]; split <;> rfl
@[simp] theorem poll_out : (poll s).2.out = s.out := by
  simp only [poll]; split <;> rfl
@[simp] theorem poll_diag : (poll s).2.diag = s.diag := by
  simp only [poll]; split <;> rfl
@[simp] theorem poll_ir : (poll s).2.ir = s.ir := by
  simp only [poll]; split <;> rfl
@[simp] theorem poll_phase : (poll s).2.phase = s.phase := by
  simp only [poll]; split <;> rfl
@[simp] theorem poll_config : (poll s).2.config = s.config := by
  simp only [poll]; split <;> rfl
@[simp] theorem poll_reg (j : RegIndex) : (poll s).2.reg j = s.reg j := by
  simp only [poll]; split <;> rfl

@[simp] theorem keyboardIntercept_pc : (keyboardIntercept s).pc = s.pc := by
  have h := poll_pc s
  simp only [keyboardIntercept]; split <;> simp_all
@[simp] theorem keyboardIntercept_cond : (keyboardIntercept s).cond = s.cond := by
  have h := poll_cond s
  simp only [keyboardIntercept]; split <;> simp_all
@[simp] theorem keyboardIntercept_out : (keyboardIntercept s).out = s.out := by
  have h := poll_out s
  simp only [keyboardIntercept]; split <;> simp_all
@[simp] theorem keyboardIntercept_ir : (keyboardIntercept s).ir = s.ir := by
  have h := poll_ir s
  simp only [keyboardIntercept]; split <;> simp_all
@[simp] theorem keyboardIntercept_phase : (keyboardIntercept s).phase = s.phase := by
  have h := poll_phase s
  simp only [keyboardIntercept]; split <;> simp_all
@[simp] theorem keyboardIntercept_config : (keyboardIntercept s).config = s.config := by
  have h := poll_config s
  simp only [keyboardIntercept]; split <;> simp_all
@[simp] theorem keyboardIntercept_reg (j : RegIndex) : (keyboardIntercept s).reg j = s.reg j := by
  have h := poll_reg s j
  simp only [keyboardIntercept]; split <;> simp_all

@[simp] theorem memRead_pc : (memRead a s).2.pc = s.pc := by
  simp only [memRead]; split <;> simp
@[simp] theorem strRead_pc : (strRead a s).2.pc = s.pc := by
  simp only [strRead]; split <;> simp
@[simp] theorem memRead_cond : (memRead a s).2.cond = s.cond := by
  simp only [memRead]; split <;> simp
@[simp] theorem strRead_cond : (strRead a s).2.cond = s.cond := by
  simp only [strRead]; split <;> simp
@[simp] theorem memRead_out : (memRead a s).2.out = s.out := by
  simp only [memRead]; split <;> simp
@[simp] theorem strRead_out : (strRead a s).2.out = s.out := by
  simp only [strRead]; split <;> simp
@[simp] theorem memRead_ir : (memRead a s).2.ir = s.ir := by
  simp only [memRead]; split <;> simp
@[simp] theorem strRead_ir : (strRead a s).2.ir = s.ir := by
  simp only [strRead]; split <;> simp
@[simp] theorem memRead_phase : (memRead a s).2.phase = s.phase := by
  simp only [memRead]; split <;> simp
@[simp] theorem strRead_phase : (strRead a s).2.phase = s.phase := by
  simp only [strRead]; split <;> simp
@[simp] theorem memRead_config : (memRead a s).2.config = s.config := by
  simp only [memRead]; split <;> simp
@[simp] theorem strRead_config : (strRead a s).2.config = s.config := by
  simp only [strRead]; split <;> simp
@[simp] theorem memRead_reg (j : RegIndex) : (memRead a s).2.reg j = s.reg j := by
  simp only [memRead]; split <;> simp
@[simp] theorem strRead_reg (j : RegIndex) : (strRead a s).2.reg j = s.reg j := by
  simp only [strRead]; split <;> simp

end

/-- The intercept keeps memory canonical. -/
theorem keyboardIntercept_wf {s : State} (h : s.mem.wf = true) : (keyboardIntercept s).mem.wf = true := by
  have hm := poll_mem s
  simp only [keyboardIntercept]
  split <;> simp_all [Memory.wf_write]

/-- A read of any address but `KBSR_ADDR` has no side effect (20_memory.md R53). -/
theorem memRead_plain {a : Word} {s : State} (h : a ≠ s.config.kbsrAddr) : memRead a s = (s.mem.read a, s) := by
  simp [memRead, h]

/-- A read of `KBSR_ADDR` polls, then reads the cell (20_memory.md R52). -/
theorem memRead_kbsr {a : Word} {s : State} (h : a = s.config.kbsrAddr) :
    memRead a s = ((keyboardIntercept s).mem.read a, keyboardIntercept s) := by
  simp [memRead, h]

theorem memRead_value (a : Word) (s : State) : (memRead a s).1 = (memRead a s).2.mem.read a := rfl

theorem memRead_wf {a : Word} {s : State} (h : s.mem.wf = true) : (memRead a s).2.mem.wf = true := by
  by_cases ha : a = s.config.kbsrAddr
  · rw [memRead_kbsr ha]; exact keyboardIntercept_wf h
  · rw [memRead_plain ha]; exact h

theorem strRead_raw {a : Word} {s : State} (h : s.config.stringReadsIntercepted = false) :
    strRead a s = (s.mem.read a, s) := by
  simp [strRead, h]

theorem strRead_plain {a : Word} {s : State} (h : a ≠ s.config.kbsrAddr) : strRead a s = (s.mem.read a, s) := by
  simp [strRead, memRead_plain h]

theorem strRead_wf {a : Word} {s : State} (h : s.mem.wf = true) : (strRead a s).2.mem.wf = true := by
  simp only [strRead]
  split
  · exact memRead_wf h
  · exact h

/-! ### The iteration -/

/-- Fetch at an address that is not `KBSR_ADDR`: the word under PC, no side effect, PC incremented. -/
theorem fetch_plain {s : State} (h : s.pc ≠ s.config.kbsrAddr) :
    fetch s = (s.mem.read s.pc, (s.setIr (some (s.mem.read s.pc))).setPc (s.pc + 1#16)) := by
  simp [fetch, memRead_plain h]

/-- Fetch at any address, over the read path (40_dispatcher.md R112, R113). -/
theorem fetch_eq (s : State) :
    fetch s = ((memRead s.pc s).1, ((memRead s.pc s).2.setIr (some (memRead s.pc s).1)).setPc (s.pc + 1#16)) := rfl

theorem bumpAt_off {here : CounterPhase} {s : State}
    (h : s.config.cycleCounterEnabled = false ∨ s.config.cycleCounterPhase ≠ here) : bumpAt here s = s := by
  rcases h with h | h <;> simp [bumpAt, h]

theorem bumpAt_on {here : CounterPhase} {s : State} (he : s.config.cycleCounterEnabled = true)
    (hp : s.config.cycleCounterPhase = here) : bumpAt here s = bumpCounter s := by
  simp [bumpAt, he, hp]

/-- The bump writes one cell of memory, and nothing else. -/
theorem bumpAt_eq_setMem (here : CounterPhase) (s : State) : bumpAt here s = s.setMem (bumpAt here s).mem := by
  simp only [bumpAt]
  split <;> rfl

theorem bumpAt_wf {here : CounterPhase} {s : State} (h : s.mem.wf = true) : (bumpAt here s).mem.wf = true := by
  simp only [bumpAt]
  split
  · exact Memory.wf_write h _ _
  · exact h

/-- A bump that stands there adds 1 to the counter cell (40_dispatcher.md R116). -/
theorem bumpAt_read_counter {here : CounterPhase} {s : State} (hw : s.mem.wf = true)
    (he : s.config.cycleCounterEnabled = true) (hp : s.config.cycleCounterPhase = here) :
    (bumpAt here s).mem.read s.config.cycleCounterAddr = s.mem.read s.config.cycleCounterAddr + 1#16 := by
  rw [bumpAt_on he hp]
  exact Memory.read_write_same hw _ _

/-- A bump leaves every other cell alone. -/
theorem bumpAt_read_other {here : CounterPhase} {s : State} (hw : s.mem.wf = true) {a : Word}
    (ha : a ≠ s.config.cycleCounterAddr) : (bumpAt here s).mem.read a = s.mem.read a := by
  simp only [bumpAt]
  split
  · exact Memory.read_write_other hw ha _
  · rfl

section
variable (here : CounterPhase) (s : State)

@[simp] theorem bumpAt_pc : (bumpAt here s).pc = s.pc := by
  rw [bumpAt_eq_setMem]; rfl
@[simp] theorem bumpAt_cond : (bumpAt here s).cond = s.cond := by
  rw [bumpAt_eq_setMem]; rfl
@[simp] theorem bumpAt_running : (bumpAt here s).running = s.running := by
  rw [bumpAt_eq_setMem]; rfl
@[simp] theorem bumpAt_out : (bumpAt here s).out = s.out := by
  rw [bumpAt_eq_setMem]; rfl
@[simp] theorem bumpAt_diag : (bumpAt here s).diag = s.diag := by
  rw [bumpAt_eq_setMem]; rfl
@[simp] theorem bumpAt_ir : (bumpAt here s).ir = s.ir := by
  rw [bumpAt_eq_setMem]; rfl
@[simp] theorem bumpAt_phase : (bumpAt here s).phase = s.phase := by
  rw [bumpAt_eq_setMem]; rfl
@[simp] theorem bumpAt_input : (bumpAt here s).input = s.input := by
  rw [bumpAt_eq_setMem]; rfl
@[simp] theorem bumpAt_config : (bumpAt here s).config = s.config := by
  rw [bumpAt_eq_setMem]; rfl
@[simp] theorem bumpAt_draws : (bumpAt here s).draws = s.draws := by
  rw [bumpAt_eq_setMem]; rfl
@[simp] theorem bumpAt_reg (j : RegIndex) : (bumpAt here s).reg j = s.reg j := by
  rw [bumpAt_eq_setMem]; rfl
@[simp] theorem endIteration_pc : (endIteration s).pc = s.pc := by
  simp only [endIteration]; split <;> simp
@[simp] theorem endIteration_cond : (endIteration s).cond = s.cond := by
  simp only [endIteration]; split <;> simp
@[simp] theorem endIteration_running : (endIteration s).running = s.running := by
  simp only [endIteration]; split <;> simp
@[simp] theorem endIteration_out : (endIteration s).out = s.out := by
  simp only [endIteration]; split <;> simp
@[simp] theorem endIteration_diag : (endIteration s).diag = s.diag := by
  simp only [endIteration]; split <;> simp
@[simp] theorem endIteration_phase : (endIteration s).phase = s.phase := by
  simp only [endIteration]; split <;> simp
@[simp] theorem endIteration_input : (endIteration s).input = s.input := by
  simp only [endIteration]; split <;> simp
@[simp] theorem endIteration_config : (endIteration s).config = s.config := by
  simp only [endIteration]; split <;> simp
@[simp] theorem endIteration_draws : (endIteration s).draws = s.draws := by
  simp only [endIteration]; split <;> simp
@[simp] theorem endIteration_reg (j : RegIndex) : (endIteration s).reg j = s.reg j := by
  simp only [endIteration]; split <;> simp

end

theorem endIteration_done {s : State} (h : s.phase = .loopCheck) :
    endIteration s = (bumpAt .afterExecute s).setIr none := by
  simp [endIteration, h]

theorem endIteration_inside {s : State} (h : s.phase ≠ .loopCheck) : endIteration s = s := by
  simp [endIteration, h]

theorem endIteration_wf {s : State} (h : s.mem.wf = true) : (endIteration s).mem.wf = true := by
  simp only [endIteration]
  split
  · exact bumpAt_wf h
  · exact h

/-! ### Trap entry (60_exceptions.md R244) -/

theorem trapEntry_reg (s : State) (j : RegIndex) :
    (trapEntry s).reg j = if s.config.trapWritesR7 = true ∧ j = 7 then s.pc else s.reg j := by
  simp only [trapEntry]
  split <;> simp_all

@[simp] theorem trapEntry_reg_zero (s : State) : (trapEntry s).reg 0 = s.reg 0 := by
  rw [trapEntry_reg, if_neg (by simp)]

section
variable (s : State)

@[simp] theorem trapEntry_pc : (trapEntry s).pc = s.pc := by
  simp only [trapEntry]; split <;> rfl
@[simp] theorem trapEntry_cond : (trapEntry s).cond = s.cond := by
  simp only [trapEntry]; split <;> rfl
@[simp] theorem trapEntry_running : (trapEntry s).running = s.running := by
  simp only [trapEntry]; split <;> rfl
@[simp] theorem trapEntry_mem : (trapEntry s).mem = s.mem := by
  simp only [trapEntry]; split <;> rfl
@[simp] theorem trapEntry_out : (trapEntry s).out = s.out := by
  simp only [trapEntry]; split <;> rfl
@[simp] theorem trapEntry_diag : (trapEntry s).diag = s.diag := by
  simp only [trapEntry]; split <;> rfl
@[simp] theorem trapEntry_ir : (trapEntry s).ir = s.ir := by
  simp only [trapEntry]; split <;> rfl
@[simp] theorem trapEntry_phase : (trapEntry s).phase = s.phase := by
  simp only [trapEntry]; split <;> rfl
@[simp] theorem trapEntry_input : (trapEntry s).input = s.input := by
  simp only [trapEntry]; split <;> rfl
@[simp] theorem trapEntry_config : (trapEntry s).config = s.config := by
  simp only [trapEntry]; split <;> rfl
@[simp] theorem trapEntry_draws : (trapEntry s).draws = s.draws := by
  simp only [trapEntry]; split <;> rfl

end

end Sys2Proof.Machine
end

