-- ==== Sys2Proof/Laws/Trap.lean ====
section
/-! SUPPORT. What the shared parts of the trap routines can do: the blocking request for each answer, and the loop of the
string routines. -/

namespace Sys2Proof.Machine

/-! ### The blocking request (44_trap.md R211, R214, R226 to R228) -/

theorem inputRoutine_key {echo : Bool} {w : Phase} {s : State} {k : Byte} {rest : List InputAnswer}
    (h : firstAnswer s.input = some (.key k, rest)) :
    inputRoutine echo w s =
      (storeKey k (if echo then (s.setInput rest).emit [k] else s.setInput rest)).setPhase .loopCheck := by
  simp [inputRoutine, readBlocking_some h]

theorem inputRoutine_interrupted {echo : Bool} {w : Phase} {s : State} {rest : List InputAnswer}
    (h : firstAnswer s.input = some (.interrupted, rest)) :
    inputRoutine echo w s = (interruptedRead (s.setInput rest)).setPhase .loopCheck := by
  simp [inputRoutine, readBlocking_some h]

theorem inputRoutine_error {echo : Bool} {w : Phase} {s : State} {rest : List InputAnswer}
    (h : firstAnswer s.input = some (.error, rest)) :
    inputRoutine echo w s = ((s.setInput rest).report .inputError).setPhase .loopCheck := by
  simp [inputRoutine, readBlocking_some h]

theorem inputRoutine_waits {echo : Bool} {w : Phase} {s : State} (h : firstAnswer s.input = none) :
    inputRoutine echo w s = (s.setInput []).setPhase w := by
  simp [inputRoutine, readBlocking_none h]

/-- `NoKey`s before an answer are passed over. -/
theorem firstAnswer_replicate (n : Nat) {answer : InputAnswer} (rest : List InputAnswer) (h : answer ≠ .noKey) :
    firstAnswer (List.replicate n .noKey ++ answer :: rest) = some (answer, rest) := by
  induction n with
  | zero => cases answer <;> simp_all [firstAnswer]
  | succ n ih => simpa [List.replicate_succ, firstAnswer] using ih

/-- An interrupted read leaves R0 and COND to the draws, clears RUNNING, and moves the draws on by two. -/
theorem interruptedRead_eq (s : State) :
    interruptedRead s = { (s.setReg 0 (Config.draw16 s.draws)) with
      running := false, cond := Config.drawCond (s.draws + 1), draws := s.draws + 2 } := rfl

/-! ### The string loop (44_trap.md R213, R215, R217) -/

section
variable {bytes : Config → Word → List Byte} {resume : Word → Phase}

theorem stringLoop_zero (a : Word) (s : State) : stringLoop bytes resume 0 a s = s.setPhase (resume a) := rfl

theorem stringLoop_stop {cells : Nat} {a : Word} {s : State} (h : (strRead a s).1 = 0#16) :
    stringLoop bytes resume (cells + 1) a s = (strRead a s).2.setPhase .loopCheck := by
  simp [stringLoop, h]

theorem stringLoop_next {cells : Nat} {a : Word} {s : State} (h : (strRead a s).1 ≠ 0#16) :
    stringLoop bytes resume (cells + 1) a s =
      stringLoop bytes resume cells (a + 1#16) ((strRead a s).2.emit (bytes s.config (strRead a s).1)) := by
  simp [stringLoop, h]

/-- `m` cells that are not 0x0000 and are read without a poll are emitted in order, and the loop goes on behind them. -/
theorem stringLoop_segment {m : Nat} {a : Word} {s : State} (cells : Nat)
    (hplain : s.config.stringReadsIntercepted = true → ∀ j < m, a + BitVec.ofNat 16 j ≠ s.config.kbsrAddr)
    (hnz : ∀ j < m, s.mem.read (a + BitVec.ofNat 16 j) ≠ 0#16) :
    stringLoop bytes resume (m + cells) a s = stringLoop bytes resume cells (a + BitVec.ofNat 16 m)
      (s.emit ((List.range m).flatMap (fun j => bytes s.config (s.mem.read (a + BitVec.ofNat 16 j))))) := by
  induction m generalizing a s with
  | zero => simp [State.emit]
  | succ m ih =>
    have hread : strRead a s = (s.mem.read a, s) := by
      cases hi : s.config.stringReadsIntercepted with
      | false => exact strRead_raw hi
      | true => exact strRead_plain (by simpa using hplain hi 0 (by omega))
    have hsucc (j : Nat) : a + 1#16 + BitVec.ofNat 16 j = a + BitVec.ofNat 16 (j + 1) := by
      rw [BitVec.add_assoc, Nat.add_comm j 1, BitVec.ofNat_add]
    have hne : (strRead a s).1 ≠ 0#16 := by rw [hread]; simpa using hnz 0 (by omega)
    rw [Nat.add_right_comm, stringLoop_next hne, hread, ih]
    · simp only [hsucc, State.config_emit, State.mem_emit, List.range_succ_eq_map, List.flatMap_cons, List.flatMap_map]
      simp [State.emit]
    · intro hi j hj
      rw [hsucc]
      exact hplain hi (j + 1) (by omega)
    · intro j hj
      rw [hsucc]
      exact hnz (j + 1) (by omega)

/-- A property that reads, emissions and changes of phase keep is kept by the whole loop. -/
theorem stringLoop_keeps (P : State → Prop) (hread : ∀ a s, P s → P (strRead a s).2)
    (hemit : ∀ b s, P s → P (s.emit b)) (hphase : ∀ p s, P s → P (s.setPhase p)) (cells : Nat) (a : Word) (s : State)
    (h : P s) : P (stringLoop bytes resume cells a s) := by
  induction cells generalizing a s with
  | zero => exact hphase _ _ h
  | succ cells ih =>
    by_cases hc : (strRead a s).1 = 0#16
    · rw [stringLoop_stop hc]; exact hphase _ _ (hread a s h)
    · rw [stringLoop_next hc]; exact ih _ _ (hemit _ _ (hread a s h))

/-- The loop ends at the loop check, or is still inside the routine. -/
theorem stringLoop_phase (cells : Nat) (a : Word) (s : State) :
    (stringLoop bytes resume cells a s).phase = .loopCheck ∨
    ∃ b, (stringLoop bytes resume cells a s).phase = resume b := by
  induction cells generalizing a s with
  | zero => exact .inr ⟨a, rfl⟩
  | succ cells ih =>
    by_cases hc : (strRead a s).1 = 0#16
    · rw [stringLoop_stop hc]; exact .inl rfl
    · rw [stringLoop_next hc]; exact ih _ _

end

section
variable (bytes : Config → Word → List Byte) (resume : Word → Phase) (cells : Nat) (a : Word) (s : State)

@[simp] theorem stringLoop_reg (j : RegIndex) : (stringLoop bytes resume cells a s).reg j = s.reg j :=
  stringLoop_keeps (fun t => t.reg j = s.reg j) (by simp) (by simp) (by simp) cells a s rfl

@[simp] theorem stringLoop_pc : (stringLoop bytes resume cells a s).pc = s.pc :=
  stringLoop_keeps (fun t => t.pc = s.pc) (by simp) (by simp) (by simp) cells a s rfl

@[simp] theorem stringLoop_cond : (stringLoop bytes resume cells a s).cond = s.cond :=
  stringLoop_keeps (fun t => t.cond = s.cond) (by simp) (by simp) (by simp) cells a s rfl

@[simp] theorem stringLoop_ir : (stringLoop bytes resume cells a s).ir = s.ir :=
  stringLoop_keeps (fun t => t.ir = s.ir) (by simp) (by simp) (by simp) cells a s rfl

@[simp] theorem stringLoop_config : (stringLoop bytes resume cells a s).config = s.config :=
  stringLoop_keeps (fun t => t.config = s.config) (by simp) (by simp) (by simp) cells a s rfl

theorem stringLoop_wf (h : s.mem.wf = true) : (stringLoop bytes resume cells a s).mem.wf = true :=
  stringLoop_keeps (fun t => t.mem.wf = true) (fun _ _ => strRead_wf) (by simp) (by simp) cells a s h

end

end Sys2Proof.Machine
end

