-- ==== Sys2Proof/Laws/Exec.lean ====
section
/-! SUPPORT. One equation for each instruction and for each phase of a step: the next state, over the shared operations.
Later proofs cite these instead of unfolding `exec` and `step`. -/

namespace Sys2Proof.Machine

section
variable (s : State)

theorem exec_br (n z p : Bool) (f : BitVec 9) :
    exec (.br n z p f) s = .next (if branchTaken n z p s.cond then s.setPc (pcRelative f s) else s) := rfl

theorem exec_addReg (d a b : RegIndex) : exec (.addReg d a b) s = .next (s.setRegCC d (s.reg a + s.reg b)) := rfl

theorem exec_addImm (d a : RegIndex) (f : BitVec 5) :
    exec (.addImm d a f) s = .next (s.setRegCC d (s.reg a + sext f)) := rfl

theorem exec_ld (d : RegIndex) (f : BitVec 9) : exec (.ld d f) s = .next (loadFrom d (pcRelative f s) s) := rfl

theorem exec_st (r : RegIndex) (f : BitVec 9) : exec (.st r f) s = .next (s.write (pcRelative f s) (s.reg r)) := rfl

theorem exec_jsr (f : BitVec 11) : exec (.jsr f) s = .next ((link s).setPc (s.pc + sext f)) := rfl

theorem exec_jsrr (b : RegIndex) : exec (.jsrr b) s =
    .next ((link s).setPc (if s.config.jsrrBaseAfterLink then (link s).reg b else s.reg b)) := rfl

theorem exec_andReg (d a b : RegIndex) : exec (.andReg d a b) s = .next (s.setReg d (s.reg a &&& s.reg b)) := rfl

theorem exec_andImm (d a : RegIndex) (f : BitVec 5) :
    exec (.andImm d a f) s = .next (s.setReg d (s.reg a &&& sext f)) := rfl

theorem exec_ldr (d b : RegIndex) (f : BitVec 6) :
    exec (.ldr d b f) s = .next (loadFrom d (baseOffset b f s) s) := rfl

theorem exec_str (r b : RegIndex) (f : BitVec 6) :
    exec (.str r b f) s = .next (s.write (baseOffset b f s) (s.reg r)) := rfl

theorem exec_rti : exec .rti s = .next (s.report (.reservedOpcode 0x8#4)) := rfl

theorem exec_not (d a : RegIndex) : exec (.not d a) s = .next (s.setRegCC d (~~~ s.reg a)) := rfl

theorem exec_ldi (d : RegIndex) (f : BitVec 9) :
    exec (.ldi d f) s = .next (loadFrom d (indirect f s).1 (indirect f s).2) := rfl

theorem exec_sti (r : RegIndex) (f : BitVec 9) :
    exec (.sti r f) s = .next ((indirect f s).2.write (indirect f s).1 (s.reg r)) := by
  show Host.Outcome.next ((indirect f s).2.write (indirect f s).1 ((indirect f s).2.reg r)) = _
  rw [indirect, memRead_reg]

theorem exec_jmp (b : RegIndex) : exec (.jmp b) s = .next (s.setPc (s.reg b)) := rfl

theorem exec_res : exec .res s = .next (s.report (.reservedOpcode 0xD#4)) := rfl

theorem exec_lea (d : RegIndex) (f : BitVec 9) : exec (.lea d f) s = .next (s.setRegCC d (pcRelative f s)) := rfl

theorem exec_trap (code : BitVec 8) : exec (.trap code) s = .next ((trapEntry s).report (.unknownTrap code)) := rfl

theorem exec_getc : exec .getc s = .next (getcRead (trapEntry s)) := rfl

theorem exec_out : exec .out s = .next ((trapEntry s).emit [lowByte (s.reg 0)]) := by
  show Host.Outcome.next ((trapEntry s).emit [lowByte ((trapEntry s).reg 0)]) = _
  rw [trapEntry_reg_zero]

theorem exec_puts : exec .puts s = .next (putsLoop (s.reg 0) (trapEntry s)) := by
  show Host.Outcome.next (putsLoop ((trapEntry s).reg 0) (trapEntry s)) = _
  rw [trapEntry_reg_zero]

theorem exec_inp : exec .inp s = .next (inRead ((trapEntry s).emit s.config.inPrompt)) := rfl

theorem exec_putsp : exec .putsp s = .next (putspLoop (s.reg 0) (trapEntry s)) := by
  show Host.Outcome.next (putspLoop ((trapEntry s).reg 0) (trapEntry s)) = _
  rw [trapEntry_reg_zero]

theorem exec_halt : exec .halt s = .next (((trapEntry s).emit s.config.haltOutput).setRunning false) := rfl

end

/-! ### Loads -/

/-- A load away from `KBSR_ADDR` only writes DR and COND. -/
theorem loadFrom_plain {d : RegIndex} {ea : Word} {s : State} (h : ea ≠ s.config.kbsrAddr) :
    loadFrom d ea s = s.setRegCC d (s.mem.read ea) := by
  simp only [loadFrom, memRead_plain h]

/-- A load at `KBSR_ADDR` polls, then writes DR and COND from the status cell. -/
theorem loadFrom_kbsr {d : RegIndex} {ea : Word} {s : State} (h : ea = s.config.kbsrAddr) :
    loadFrom d ea s = (keyboardIntercept s).setRegCC d ((keyboardIntercept s).mem.read ea) := by
  simp only [loadFrom, memRead_kbsr h]

theorem indirect_plain {f : BitVec 9} {s : State} (h : pcRelative f s ≠ s.config.kbsrAddr) :
    indirect f s = (s.mem.read (pcRelative f s), s) := memRead_plain h

theorem indirect_kbsr {f : BitVec 9} {s : State} (h : pcRelative f s = s.config.kbsrAddr) :
    indirect f s = ((keyboardIntercept s).mem.read (pcRelative f s), keyboardIntercept s) := memRead_kbsr h

/-! ### The step, by phase -/

section
variable {s : State}

theorem step_beforeRun (h : s.phase = .beforeRun) : step s = .next (runEntry s) := by
  simp [step, stepFrom, h]

theorem step_iterate (hp : s.phase = .loopCheck) (hr : s.running = true) : step s = iterate s := by
  simp [step, stepFrom, hp, hr]

theorem step_returns (hp : s.phase = .loopCheck) (hr : s.running = false) : step s = .next (s.setPhase .ended) := by
  simp [step, stepFrom, hp, hr]

theorem step_waitGetc (h : s.phase = .waitGetc) : step s = .next (endIteration (getcRead s)) := by
  simp [step, stepFrom, h, completeIteration]

theorem step_waitIn (h : s.phase = .waitIn) : step s = .next (endIteration (inRead s)) := by
  simp [step, stepFrom, h, completeIteration]

theorem step_inPuts {a : Word} (h : s.phase = .inPuts a) : step s = .next (endIteration (putsLoop a s)) := by
  simp [step, stepFrom, h, completeIteration]

theorem step_inPutsp {a : Word} (h : s.phase = .inPutsp a) : step s = .next (endIteration (putspLoop a s)) := by
  simp [step, stepFrom, h, completeIteration]

theorem step_ended (h : s.phase = .ended) : step s = .next s := by
  simp [step, stepFrom, h]

/-- A run of `k + 1` steps is its first step, then a run of `k`. -/
theorem run_succ {t : State} (k : Nat) (h : step s = .next t) :
    Host.Core.run Sys2Proof.core (k + 1) s = Host.Core.run Sys2Proof.core k t := by
  have hc : Sys2Proof.core.step s = .next t := h
  simp only [Host.Core.run, hc]

/-- One iteration is the handler of the fetched word, then the iteration's end. -/
theorem iterate_next {t : State} (h : exec (decode (fetch (bumpAt .beforeFetch s)).1) (fetch (bumpAt .beforeFetch s)).2
    = .next t) : iterate s = .next (endIteration t) := by
  simp only [iterate, h, completeIteration]

end

end Sys2Proof.Machine
end

