-- ==== Sys2Proof/Laws/PerInstr.lean ====
section
/-! SUPPORT. Statements about every instruction as syntax, one lemma for each constructor. -/

namespace Sys2Proof.Laws

/-- The word of an instruction matches the instruction's own row of the opcode table: under the row's mask it is the
row's match (30_encoding.md R83, R90). -/
def MatchesTable.Statement (i : Instr) : Prop := encode i &&& (tableRow i).1 = (tableRow i).2

theorem MatchesTable.br (n z p : Bool) (f : BitVec 9) : MatchesTable.Statement (.br n z p f) := by
  unfold MatchesTable.Statement; revert n z p f; decide +kernel

theorem MatchesTable.addReg (d a b : RegIndex) : MatchesTable.Statement (.addReg d a b) := by
  unfold MatchesTable.Statement; revert d a b; decide +kernel

theorem MatchesTable.addImm (d a : RegIndex) (f : BitVec 5) : MatchesTable.Statement (.addImm d a f) := by
  unfold MatchesTable.Statement; revert d a f; decide +kernel

theorem MatchesTable.ld (d : RegIndex) (f : BitVec 9) : MatchesTable.Statement (.ld d f) := by
  unfold MatchesTable.Statement; revert d f; decide +kernel

theorem MatchesTable.st (d : RegIndex) (f : BitVec 9) : MatchesTable.Statement (.st d f) := by
  unfold MatchesTable.Statement; revert d f; decide +kernel

theorem MatchesTable.jsr (f : BitVec 11) : MatchesTable.Statement (.jsr f) := by
  unfold MatchesTable.Statement; revert f; decide +kernel

theorem MatchesTable.jsrr (b : RegIndex) : MatchesTable.Statement (.jsrr b) := by
  unfold MatchesTable.Statement; revert b; decide +kernel

theorem MatchesTable.andReg (d a b : RegIndex) : MatchesTable.Statement (.andReg d a b) := by
  unfold MatchesTable.Statement; revert d a b; decide +kernel

theorem MatchesTable.andImm (d a : RegIndex) (f : BitVec 5) : MatchesTable.Statement (.andImm d a f) := by
  unfold MatchesTable.Statement; revert d a f; decide +kernel

theorem MatchesTable.ldr (d b : RegIndex) (f : BitVec 6) : MatchesTable.Statement (.ldr d b f) := by
  unfold MatchesTable.Statement; revert d b f; decide +kernel

theorem MatchesTable.str (d b : RegIndex) (f : BitVec 6) : MatchesTable.Statement (.str d b f) := by
  unfold MatchesTable.Statement; revert d b f; decide +kernel

theorem MatchesTable.rti : MatchesTable.Statement (.rti) := by
  unfold MatchesTable.Statement; decide +kernel

theorem MatchesTable.not (d a : RegIndex) : MatchesTable.Statement (.not d a) := by
  unfold MatchesTable.Statement; revert d a; decide +kernel

theorem MatchesTable.ldi (d : RegIndex) (f : BitVec 9) : MatchesTable.Statement (.ldi d f) := by
  unfold MatchesTable.Statement; revert d f; decide +kernel

theorem MatchesTable.sti (d : RegIndex) (f : BitVec 9) : MatchesTable.Statement (.sti d f) := by
  unfold MatchesTable.Statement; revert d f; decide +kernel

theorem MatchesTable.jmp (b : RegIndex) : MatchesTable.Statement (.jmp b) := by
  unfold MatchesTable.Statement; revert b; decide +kernel

theorem MatchesTable.res : MatchesTable.Statement (.res) := by
  unfold MatchesTable.Statement; decide +kernel

theorem MatchesTable.lea (d : RegIndex) (f : BitVec 9) : MatchesTable.Statement (.lea d f) := by
  unfold MatchesTable.Statement; revert d f; decide +kernel

theorem MatchesTable.trap (code : BitVec 8) : MatchesTable.Statement (.trap code) := by
  unfold MatchesTable.Statement; revert code; decide +kernel

theorem MatchesTable.getc : MatchesTable.Statement (.getc) := by
  unfold MatchesTable.Statement; decide +kernel

theorem MatchesTable.out : MatchesTable.Statement (.out) := by
  unfold MatchesTable.Statement; decide +kernel

theorem MatchesTable.puts : MatchesTable.Statement (.puts) := by
  unfold MatchesTable.Statement; decide +kernel

theorem MatchesTable.inp : MatchesTable.Statement (.inp) := by
  unfold MatchesTable.Statement; decide +kernel

theorem MatchesTable.putsp : MatchesTable.Statement (.putsp) := by
  unfold MatchesTable.Statement; decide +kernel

theorem MatchesTable.halt : MatchesTable.Statement (.halt) := by
  unfold MatchesTable.Statement; decide +kernel

end Sys2Proof.Laws
end

