-- ==== Sys2Proof/Tests/Slice0.lean ====
section
/-! SUPPORT. Tests and witnesses. The expected values are those of 95_test_vectors.md, under the vector's name, or are
written out from the encodings of 30_encoding.md R83. A `witness_<Name>` meets the hypotheses of `Obligations.<Name>`. -/

namespace Sys2Proof.Machine.Tests

/-! ### The well-formedness check and its ill-formed terms (30_encoding.md R90) -/

theorem test_service_codes_are_no_generic_trap :
    (Instr.trap 0x20#8).wellFormed = false ∧ (Instr.trap 0x21#8).wellFormed = false ∧
    (Instr.trap 0x22#8).wellFormed = false ∧ (Instr.trap 0x23#8).wellFormed = false ∧
    (Instr.trap 0x24#8).wellFormed = false ∧ (Instr.trap 0x25#8).wellFormed = false := by decide

theorem test_other_codes_are_generic_traps :
    (Instr.trap 0x1F#8).wellFormed = true ∧ (Instr.trap 0x26#8).wellFormed = true ∧
    (Instr.trap 0x00#8).wellFormed = true ∧ (Instr.trap 0xFF#8).wellFormed = true ∧
    Instr.getc.wellFormed = true := by decide

/-! ### Words written out bit by bit from the patterns of R83, every constructor once -/

theorem test_decode_operate :
    decode 0b0001011001010101#16 = .addReg 3 1 5 ∧ decode 0b0001011001110101#16 = .addImm 3 1 0b10101#5 ∧
    decode 0b0101110010000001#16 = .andReg 6 2 1 ∧ decode 0b0101110010101110#16 = .andImm 6 2 0b01110#5 ∧
    decode 0b1001010110111111#16 = .not 2 6 := by decide

theorem test_decode_loads :
    decode 0b0010101100000011#16 = .ld 5 0b100000011#9 ∧ decode 0b1010100011111110#16 = .ldi 4 0b011111110#9 ∧
    decode 0b0110011100111110#16 = .ldr 3 4 0b111110#6 ∧ decode 0b1110001100000001#16 = .lea 1 0b100000001#9 := by decide

theorem test_decode_stores :
    decode 0b0011001111111111#16 = .st 1 0b111111111#9 ∧ decode 0b1011010000000100#16 = .sti 2 0b000000100#9 ∧
    decode 0b0111110011100000#16 = .str 6 3 0b100000#6 := by decide

theorem test_decode_control :
    decode 0b0000100100000010#16 = .br true false false 0b100000010#9 ∧
    decode 0b0000011000000001#16 = .br false true true 0b000000001#9 ∧ decode 0b1100000110000000#16 = .jmp 6 ∧
    decode 0b0100110000000001#16 = .jsr 0b10000000001#11 ∧ decode 0b0100000011000000#16 = .jsrr 3 := by decide

theorem test_decode_reserved :
    decode 0b1000000000000001#16 = .rti ∧ decode 0b1101000100100011#16 = .res := by decide

theorem test_decode_traps :
    decode 0b1111000000100000#16 = .getc ∧ decode 0b1111000000100001#16 = .out ∧ decode 0b1111000000100010#16 = .puts ∧
    decode 0b1111000000100011#16 = .inp ∧ decode 0b1111000000100100#16 = .putsp ∧
    decode 0b1111000000100101#16 = .halt ∧ decode 0b1111000000100110#16 = .trap 0x26#8 ∧
    decode 0b1111111100011111#16 = .trap 0x1F#8 := by decide

/-- The encoder writes the document's scenario (30_encoding.md R93). -/
theorem test_encode_scenario :
    encode (.addImm 0 0 5#5) = 0x1025#16 ∧ encode (.addImm 0 0 3#5) = 0x1023#16 ∧ encode .halt = 0xF025#16 := by decide

/-! ### V-SEXT -/

theorem test_sign_extension :
    sext 0b01111#5 = 0x000F#16 ∧ sext 0b10000#5 = 0xFFF0#16 ∧ sext 0b111110#6 = 0xFFFE#16 ∧
    sext 0x0FF#9 = 0x00FF#16 ∧ sext 0x100#9 = 0xFF00#16 ∧ sext 0x3FF#11 = 0x03FF#16 ∧ sext 0x400#11 = 0xFC00#16 ∧
    zext 0xFF#8 = 0x00FF#16 := by decide

/-! ### One step on a small state -/

/-- The reset state with a named prompt, for the vectors that name one. -/
def base : State := State.resetWith { defaultConfig with inPrompt := [0x3F#8] }

/-- The check on the state after the step that runs `w` from `s`. -/
def after (s : State) (w : Word) (check : State → Bool) : Bool :=
  match step (s.withFetchWord 16 w.toNat) with
  | .next t => check t
  | .fault _ => false
  | .refused _ => false

/-- The check on the state after one step of a core at its loop check. -/
def afterStep (s : State) (check : State → Bool) : Bool :=
  match step (runEntry s) with
  | .next t => check t
  | .fault _ => false
  | .refused _ => false

/-- A parameter replaced. -/
def withConfig (c : Config) (s : State) : State := { s with config := c }

theorem test_BR1 : after (base.setCond .n) 0x0402#16 (fun t => t.pc == 0x3001#16 && t.cond == .n) = true := by decide
theorem test_BR8 : after (base.setCond .p) 0x0300#16 (fun t => t.pc == 0x2F01#16) = true := by decide
theorem test_ADD2 : after ((base.setReg 1 0x7FFF#16).setReg 2 1#16) 0x1642#16
    (fun t => t.reg 3 == 0x8000#16 && t.cond == .n && t.pc == 0x3001#16) = true := by decide
theorem test_ADD9 : after ((base.setReg 1 3#16).setReg 2 4#16) 0x1652#16
    (fun t => t.reg 3 == 7#16 && t.cond == .p) = true := by decide
theorem test_ADD6 : after base 0x103F#16 (fun t => t.reg 0 == 0xFFFF#16 && t.cond == .n) = true := by decide
theorem test_ADD7 : after (base.setReg 0 0x10#16) 0x1030#16 (fun t => t.reg 0 == 0#16 && t.cond == .z) = true := by decide
theorem test_AND1 : after (((base.setReg 1 0xF0#16).setReg 2 0xFFF#16).setCond .p) 0x5642#16
    (fun t => t.reg 3 == 0xF0#16 && t.cond == .p) = true := by decide
theorem test_AND2 : after ((base.setReg 1 0x1234#16).setCond .n) 0x5260#16
    (fun t => t.reg 1 == 0#16 && t.cond == .n) = true := by decide
theorem test_AND4 : after ((base.setReg 1 0xABCD#16).setCond .p) 0x5270#16
    (fun t => t.reg 1 == 0xABC0#16 && t.cond == .p) = true := by decide
theorem test_NOT3 : after (base.setReg 2 0x8000#16) 0x94BF#16
    (fun t => t.reg 2 == 0x7FFF#16 && t.cond == .p) = true := by decide
theorem test_NOT4 : after (base.setReg 1 0xFF#16) 0x9640#16
    (fun t => t.reg 3 == 0xFF00#16 && t.reg 1 == 0xFF#16 && t.cond == .n) = true := by decide
theorem test_LD1 : after (base.write 0x3006#16 0x8001#16) 0x2205#16
    (fun t => t.reg 1 == 0x8001#16 && t.cond == .n) = true := by decide
theorem test_LD2 : after (base.write 0x2F01#16 7#16) 0x2100#16 (fun t => t.reg 0 == 7#16 && t.cond == .p) = true := by decide
theorem test_LDI2 : after ((base.write 0x3001#16 0xFE00#16).setInput [.key 0x41#8]) 0xA000#16 (fun t =>
    t.reg 0 == 0x8000#16 && t.cond == .n && t.mem.read 0xFE00#16 == 0x8000#16 && t.mem.read 0xFE02#16 == 0x41#16
      && t.input == []) = true := by decide
theorem test_LDI7 : after (((base.setPc 0xFDFF#16).write 0x8000#16 0x1234#16).setInput [.key 0x41#8, .noKey]) 0xA000#16
    (fun t => t.reg 0 == 0x1234#16 && t.cond == .p && t.mem.read 0xFE02#16 == 0x41#16 && t.input == [.noKey])
    = true := by decide
theorem test_LDR1 : after ((base.setReg 4 0x4002#16).write 0x4000#16 5#16) 0x673E#16
    (fun t => t.reg 3 == 5#16 && t.cond == .p) = true := by decide
theorem test_LDR2 : after ((base.setReg 4 0xFFFF#16).write 0#16 0x8000#16) 0x6901#16
    (fun t => t.reg 4 == 0x8000#16 && t.cond == .n) = true := by decide
theorem test_LEA2 : after (base.setPc 0xFFFE#16) 0xE001#16 (fun t => t.reg 0 == 0#16 && t.cond == .z) = true := by decide
theorem test_LEA4 : after ((base.setPc 0xFDFF#16).setInput [.noKey]) 0xE000#16
    (fun t => t.reg 0 == 0xFE00#16 && t.cond == .n && t.input == [.noKey]) = true := by decide
theorem test_ST1 : after (base.setReg 1 0x1234#16) 0x33FF#16
    (fun t => t.mem.read 0x3000#16 == 0x1234#16 && t.cond == .z) = true := by decide
theorem test_STI2 : after (((base.setPc 0xFDFF#16).setReg 0 0x777#16).setInput [.key 0x31#8]) 0xB000#16 (fun t =>
    t.mem.read 0xFE00#16 == 0x8000#16 && t.mem.read 0xFE02#16 == 0x31#16 && t.mem.read 0x8000#16 == 0x777#16)
    = true := by decide
theorem test_STI3 : after (((base.setPc 0xFDFF#16).setReg 0 0x777#16).setInput [.noKey]) 0xB000#16
    (fun t => t.mem.read 0xFE00#16 == 0#16 && t.mem.read 0#16 == 0x777#16) = true := by decide
theorem test_STR2 : after ((base.setReg 3 0x42#16).setReg 4 0xFFF0#16) 0x771F#16
    (fun t => t.mem.read 0x000F#16 == 0x42#16) = true := by decide
theorem test_STR5 : after ((base.setReg 1 0x100#16).setReg 4 0xFFFF#16) 0x7300#16
    (fun t => t.mem.read 0xFFFF#16 == 0x101#16) = true := by decide
theorem test_J1 : after (base.setReg 7 0x3001#16) 0xC1C0#16 (fun t => t.pc == 0x3001#16) = true := by decide
theorem test_J2 : after (base.setReg 2 0xFFFF#16) 0xC080#16 (fun t => t.pc == 0xFFFF#16) = true := by decide
theorem test_J4 : after base 0x4FFF#16 (fun t => t.reg 7 == 0x3001#16 && t.pc == 0x3000#16) = true := by decide
theorem test_J5 : after base 0x4C00#16 (fun t => t.reg 7 == 0x3001#16 && t.pc == 0x2C01#16) = true := by decide
theorem test_J7 : after (base.setReg 7 0x5000#16) 0x41C0#16
    (fun t => t.reg 7 == 0x3001#16 && t.pc == 0x3001#16) = true := by decide
theorem test_J8 : after (withConfig { base.config with jsrrBaseAfterLink := false } (base.setReg 7 0x5000#16)) 0x41C0#16
    (fun t => t.reg 7 == 0x3001#16 && t.pc == 0x5000#16) = true := by decide
theorem test_S4_rti : after base 0x8000#16
    (fun t => t.pc == 0x3001#16 && t.running && t.diag == [.reservedOpcode 8#4]) = true := by decide
theorem test_S4_res : after base 0xD123#16
    (fun t => t.pc == 0x3001#16 && t.running && t.diag == [.reservedOpcode 0xD#4]) = true := by decide
theorem test_T1 : after (base.setInput [.key 0x78#8]) 0xF020#16
    (fun t => t.reg 0 == 0x78#16 && t.cond == .p && t.out == []) = true := by decide
theorem test_T3 : after (base.setInput [.interrupted]) 0xF020#16
    (fun t => !t.running && t.mem.read 0xFFFF#16 == 1#16 && t.out == []) = true := by decide
theorem test_T5 : after (base.setReg 0 0x1241#16) 0xF021#16 (fun t => t.out == [0x41#8]) = true := by decide
theorem test_S2 : after (((base.setReg 0 0x4000#16).write 0x4000#16 0x48#16).write 0x4001#16 0x49#16) 0xF022#16
    (fun t => t.out == [0x48#8, 0x49#8] && t.reg 0 == 0x4000#16 && t.cond == .z) = true := by decide
theorem test_T9 : after ((base.setReg 0 0xFFFF#16).write 0xFFFF#16 0x1234#16) 0xF022#16
    (fun t => t.out == [0x34#8]) = true := by decide
theorem test_T10 : after (base.setInput [.key 0x61#8]) 0xF023#16
    (fun t => t.out == [0x3F#8, 0x61#8] && t.reg 0 == 0x61#16 && t.cond == .p) = true := by decide
theorem test_T11 : after ((base.setReg 0 0x2222#16).setInput [.error]) 0xF023#16 (fun t =>
    t.out == [0x3F#8] && t.reg 0 == 0x2222#16 && t.cond == .z && t.diag == [.inputError] && t.running) = true := by decide
theorem test_T13 : after (((base.setReg 0 0x4000#16).write 0x4000#16 0x6548#16).write 0x4001#16 0x79#16) 0xF024#16
    (fun t => t.out == [0x48#8, 0x65#8, 0x79#8]) = true := by decide
theorem test_T14 : after ((base.setReg 0 0x4000#16).write 0x4000#16 0x4100#16) 0xF024#16
    (fun t => t.out == [0#8, 0x41#8]) = true := by decide
theorem test_T16 : after (base.setPc 0x3002#16) 0xF025#16
    (fun t => t.pc == 0x3003#16 && !t.running && t.out == []) = true := by decide
theorem test_T17 : after (base.setReg 7 0x1234#16) 0xF026#16
    (fun t => t.diag == [.unknownTrap 0x26#8] && t.reg 7 == 0x1234#16) = true := by decide
theorem test_T18 : after (withConfig { base.config with trapWritesR7 := true } (base.setReg 7 0x1234#16)) 0xF026#16
    (fun t => t.diag == [.unknownTrap 0x26#8] && t.reg 7 == 0x3001#16) = true := by decide

/-! ### The dispatcher, fetch and counter (V-DISP) -/

theorem test_DS1 : afterStep ((base.setPc 0xFE00#16).setInput [.key 0x41#8]) (fun t =>
    t.mem.read 0xFE00#16 == 0x8000#16 && t.mem.read 0xFE02#16 == 0x41#16 && t.pc == 0xFE01#16
      && t.diag == [.reservedOpcode 8#4]) = true := by decide
theorem test_DS2 : afterStep ((base.setPc 0xFE00#16).setInput [.noKey])
    (fun t => t.mem.read 0xFE00#16 == 0#16 && t.pc == 0xFE01#16 && t.diag == []) = true := by decide
theorem test_DS3 : afterStep ((base.setPc 0xFFFF#16).write 0xFFFF#16 0x1025#16) (fun t =>
    t.reg 0 == 5#16 && t.cond == .p && t.pc == 0#16 && t.mem.read 0xFFFF#16 == 0x1026#16) = true := by decide
theorem test_DS4 : afterStep (base.write 0xFFFF#16 0xFFFF#16) (fun t => t.mem.read 0xFFFF#16 == 0#16) = true := by decide
theorem test_DS6 : afterStep (withConfig { base.config with cycleCounterPhase := .beforeFetch }
    ((base.setPc 0xFFFF#16).write 0xFFFF#16 0x1025#16)) (fun t => t.reg 0 == 6#16) = true := by decide

/-! ### The host's interface -/

theorem test_decodeTableWord : decodeTableWord 16 0x1642 = some (.addReg 3 1 2) ∧
    decodeTableWord 16 0xF025 = some .halt ∧ decodeTableWord 32 0 = none := by decide
theorem test_first_instruction_after_reset :
    after State.reset 0x1025#16 (fun t => t.reg 0 == 5#16 && t.pc == 0x3001#16) = true := by decide

/-! ### Witnesses: states and operands that meet the hypotheses of each statement, clause by clause

A statement without hypotheses has none here. `AtLoop` and `DeviceCells` are pairs of decidable facts. -/

/-- A core at its loop check, RUNNING true. -/
def ready : State := runEntry base

/-- `ready` with the parameters changed to bump before the fetch. -/
def readyBefore : State := withConfig { base.config with cycleCounterPhase := .beforeFetch } ready

/-- `ready` with the counter disabled. -/
def readyOff : State := withConfig { base.config with cycleCounterEnabled := false } ready

/-- `ready` with intercepted string reads. -/
def readyIntercepted : State := withConfig { base.config with stringReadsIntercepted := true } ready

/-- A word under PC. -/
def holding (s : State) (w : Word) : State := s.write s.pc w

/-- R0 at KBSR, and a KBSR pointer in the cell that a PC-relative offset 0 names. -/
def atDevice (l : List InputAnswer) : State :=
  (((ready.setReg 0 0xFE00#16).write 0x3000#16 0xFE00#16).setInput l)

/-- PC at KBSR, so that a PC-relative offset 0 names KBSR. -/
def pcAtDevice (l : List InputAnswer) : State := (ready.setPc 0xFE00#16).setInput l

/-- What does not depend on the answers that the source will give. -/
theorem device_facts (l : List InputAnswer) :
    (DeviceCells (pcAtDevice l) ∧ pcRelative 0#9 (pcAtDevice l) = (pcAtDevice l).config.kbsrAddr) ∧
    (DeviceCells (atDevice l) ∧ baseOffset 0 0#6 (atDevice l) = (atDevice l).config.kbsrAddr ∧
      pcRelative 0#9 (atDevice l) ≠ (atDevice l).config.kbsrAddr ∧
      (atDevice l).mem.read (pcRelative 0#9 (atDevice l)) = (atDevice l).config.kbsrAddr) :=
  have wp : (pcAtDevice []).mem.wf = true := by decide
  have wd : (atDevice []).mem.wf = true := by decide
  have ne : base.config.kbsrAddr ≠ base.config.kbdrAddr := by decide
  have p0 : pcRelative 0#9 (pcAtDevice []) = (pcAtDevice []).config.kbsrAddr := by decide
  have b0 : baseOffset 0 0#6 (atDevice []) = (atDevice []).config.kbsrAddr := by decide
  have d0 : pcRelative 0#9 (atDevice []) ≠ (atDevice []).config.kbsrAddr := by decide
  have d1 : (atDevice []).mem.read (pcRelative 0#9 (atDevice [])) = (atDevice []).config.kbsrAddr := by decide
  ⟨⟨⟨wp, ne⟩, p0⟩, ⟨wd, ne⟩, b0, d0, d1⟩

/-- KBSR is neither address that the fresh status names, nor the counter. -/
theorem kbsr_apart : base.config.kbsrAddr ≠ 0x8000#16 ∧ base.config.kbsrAddr ≠ 0x0000#16 ∧
    base.config.cycleCounterAddr ≠ base.config.kbsrAddr := by decide

/-- A listed answer, and the free one beyond the list, for the two device states. -/
theorem poll_answers (answer : InputAnswer) :
    (PollAnswer answer [] 0 (pcAtDevice [answer]) ∧ PollAnswer (Config.pollBeyond 0) [] 1 (pcAtDevice [])) ∧
    (PollAnswer answer [] 0 (atDevice [answer]) ∧ PollAnswer (Config.pollBeyond 0) [] 1 (atDevice [])) :=
  ⟨⟨.inl ⟨rfl, rfl⟩, .inr ⟨rfl, rfl, rfl, rfl⟩⟩, .inl ⟨rfl, rfl⟩, .inr ⟨rfl, rfl, rfl, rfl⟩⟩

theorem atLoop_ready : AtLoop ready ∧ AtLoop readyBefore ∧ AtLoop readyOff := by
  refine ⟨⟨?_, ?_⟩, ⟨?_, ?_⟩, ⟨?_, ?_⟩⟩ <;> decide

theorem witness_DecoderReadsEveryFieldFromItsBits :
    (∀ op < 16, ∃ w : Word, w.toNat / 4096 = op ∧ w.toNat / 32 % 2 = 0 ∧ w.toNat / 2048 % 2 = 0) ∧
    (0x5020#16).toNat / 32 % 2 = 1 ∧ (0x4FFF#16).toNat / 2048 % 2 = 1 ∧ (0xF020#16).toNat % 256 = 0x20 ∧
    (0xF025#16).toNat % 256 = 0x25 ∧ (0xF01F#16).toNat % 256 < 0x20 ∧ 0x25 < (0xF026#16).toNat % 256 := by
  refine ⟨fun op h => ⟨BitVec.ofNat 16 (op * 4096), ?_⟩, by decide⟩
  interval_cases op <;> decide

theorem witness_DecodeOfEncodeIsTheInstruction :
    (Instr.trap 0x1F#8).wellFormed = true ∧ (Instr.trap 0x26#8).wellFormed = true ∧
    (Instr.ldr 7 0 0b100000#6).wellFormed = true := by decide

theorem witness_IgnoredBitsDoNotMatter :
    (0x1642#16 &&& 0xFFE7#16 = 0x165A#16 &&& 0xFFE7#16 ∧ 0x1642#16 &&& 0xF020#16 = 0x1000#16) ∧
    (0x5642#16 &&& 0xFFE7#16 = 0x565A#16 &&& 0xFFE7#16 ∧ 0x5642#16 &&& 0xF020#16 = 0x5000#16) ∧
    (0x94BF#16 &&& 0xFFC0#16 = 0x9480#16 &&& 0xFFC0#16 ∧ 0x94BF#16 &&& 0xF000#16 = 0x9000#16) ∧
    (0xC1C0#16 &&& 0xF1C0#16 = 0xCFFF#16 &&& 0xF1C0#16 ∧ 0xC1C0#16 &&& 0xF000#16 = 0xC000#16) ∧
    (0x40C0#16 &&& 0xF9C0#16 = 0x46FF#16 &&& 0xF9C0#16 ∧ 0x40C0#16 &&& 0xF800#16 = 0x4000#16) ∧
    (0x8000#16 &&& 0xF000#16 = 0x8FFF#16 &&& 0xF000#16 ∧ 0x8000#16 &&& 0xF000#16 = 0x8000#16) ∧
    (0xD000#16 &&& 0xF000#16 = 0xDFFF#16 &&& 0xF000#16 ∧ 0xD000#16 &&& 0xF000#16 = 0xD000#16) ∧
    (0xF120#16 &&& 0xF0FF#16 = 0xFF20#16 &&& 0xF0FF#16 ∧ 0xF120#16 &&& 0xF000#16 = 0xF000#16) := by decide

theorem witness_FlagsAreSetByExactlyTheListedInstructions :
    (0x8000#16 ≠ 0x0000#16 ∧ (0x8000#16).getLsbD 15 = true ∧ 0x7FFF#16 ≠ 0x0000#16 ∧
      (0x7FFF#16).getLsbD 15 = false) ∧
    (∃ t, exec (.addImm 7 0 0b10000#5) ready = .next t) ∧
    (∃ t, exec .getc (ready.setInput [.key 0xFF#8]) = .next t) ∧
    (∃ t, exec (.andReg 0 0 0) ready = .next t) :=
  ⟨by decide, ⟨_, rfl⟩, ⟨_, rfl⟩, ⟨_, rfl⟩⟩

theorem witness_OnlyBranchesReadTheFlags :
    (∀ n z p f, Instr.ld 3 1#9 ≠ .br n z p f) ∧ (∃ t, exec (.ld 3 1#9) ready = .next t) ∧
    (∃ t, exec (.ld 3 1#9) (ready.setCond .n) = .next t) :=
  ⟨fun _ _ _ _ => by simp, ⟨_, rfl⟩, ⟨_, rfl⟩⟩

theorem witness_SubtractionIsNotAddOneAdd : (0 : RegIndex) ≠ 7 := by decide

theorem witness_LoadsWriteTheCellAndItsSign :
    pcRelative 0x100#9 ready ≠ ready.config.kbsrAddr ∧ baseOffset 7 0b100000#6 ready ≠ ready.config.kbsrAddr ∧
    ready.mem.read (pcRelative 0x100#9 ready) ≠ ready.config.kbsrAddr := by decide

theorem witness_LoadOfKeyboardStatusPolls (answer : InputAnswer) :
    (PollAnswer answer [] 0 (pcAtDevice [answer]) ∧ PollAnswer (Config.pollBeyond 0) [] 1 (pcAtDevice [])) ∧
    (PollAnswer answer [] 0 (atDevice [answer]) ∧ PollAnswer (Config.pollBeyond 0) [] 1 (atDevice [])) ∧
    (∀ l, DeviceCells (pcAtDevice l) ∧ pcRelative 0#9 (pcAtDevice l) = (pcAtDevice l).config.kbsrAddr) ∧
    (∀ l, DeviceCells (atDevice l) ∧ baseOffset 0 0#6 (atDevice l) = (atDevice l).config.kbsrAddr ∧
      pcRelative 0#9 (atDevice l) ≠ (atDevice l).config.kbsrAddr ∧
      (atDevice l).mem.read (pcRelative 0#9 (atDevice l)) = (atDevice l).config.kbsrAddr) :=
  ⟨(poll_answers answer).1, (poll_answers answer).2, fun l => (device_facts l).1, fun l => (device_facts l).2⟩

/-- KBSR at the address that its own status names for a key, PC at it. -/
def statusAtDevice (l : List InputAnswer) : State :=
  ((withConfig { base.config with kbsrAddr := 0x8000#16 } ready).setPc 0x8000#16).setInput l

theorem witness_LdiThroughKeyboardStatusReadsTheStatusAddress (answer : InputAnswer) :
    (DeviceCells (pcAtDevice [answer]) ∧ PollAnswer answer [] 0 (pcAtDevice [answer]) ∧
      pcRelative 0#9 (pcAtDevice [answer]) = (pcAtDevice [answer]).config.kbsrAddr ∧
      statusOf answer ≠ (pcAtDevice [answer]).config.kbsrAddr) ∧
    (DeviceCells (statusAtDevice [.key 0x41#8, .noKey]) ∧
      PollAnswer (.key 0x41#8) [.noKey] 0 (statusAtDevice [.key 0x41#8, .noKey]) ∧
      pcRelative 0#9 (statusAtDevice [.key 0x41#8, .noKey]) = 0x8000#16 ∧
      statusOf (.key 0x41#8) = (statusAtDevice [.key 0x41#8, .noKey]).config.kbsrAddr ∧
      PollAnswer .noKey [] 0 (keyboardIntercept (statusAtDevice [.key 0x41#8, .noKey]))) := by
  refine ⟨⟨(device_facts _).1.1, (poll_answers answer).1.1, (device_facts _).1.2, ?_⟩,
    ⟨by decide, by decide⟩, .inl ⟨rfl, rfl⟩, by decide, by decide, .inl ⟨rfl, rfl⟩⟩
  cases answer with
  | key _ => exact kbsr_apart.1.symm
  | noKey | interrupted | error => exact kbsr_apart.2.1.symm

theorem witness_StoresWriteOneCellPlainly :
    ready.mem.wf = true ∧ (atDevice []).mem.wf = true ∧
    pcRelative 0#9 (atDevice []) ≠ (atDevice []).config.kbsrAddr := by decide

theorem witness_StiThroughKeyboardStatusStoresAtTheStatusAddress (answer : InputAnswer) :
    (PollAnswer answer [] 0 (pcAtDevice [answer]) ∧ PollAnswer (Config.pollBeyond 0) [] 1 (pcAtDevice [])) ∧
    (∀ l, DeviceCells (pcAtDevice l) ∧ pcRelative 0#9 (pcAtDevice l) = (pcAtDevice l).config.kbsrAddr) :=
  ⟨(poll_answers answer).1, fun l => (device_facts l).1⟩

theorem witness_LoadReadsBackTheStore :
    ready.mem.wf = true ∧ pcRelative 0x0FF#9 ready ≠ ready.config.kbsrAddr ∧
    baseOffset 3 0b100000#6 ready ≠ ready.config.kbsrAddr ∧
    ready.mem.read (pcRelative 0x0FF#9 ready) ≠ ready.config.kbsrAddr ∧
    ready.mem.read (pcRelative 0x0FF#9 ready) ≠ pcRelative 0x0FF#9 ready := by decide

theorem witness_OnlyControlTransfersWritePc :
    (∃ t, exec (.lea 7 0x1FF#9) ready = .next t) ∧ (∀ n z p f, Instr.lea 7 0x1FF#9 ≠ .br n z p f) ∧
    (∀ b, Instr.lea 7 0x1FF#9 ≠ .jmp b) ∧ (∀ f, Instr.lea 7 0x1FF#9 ≠ .jsr f) ∧
    (∀ b, Instr.lea 7 0x1FF#9 ≠ .jsrr b) :=
  ⟨⟨_, rfl⟩, by simp, by simp, by simp, by simp⟩

theorem witness_GetcStoresTheKeyWithoutEcho (answer : InputAnswer) :
    (ready.setInput [answer]).input = List.replicate 0 .noKey ++ answer :: [] ∧
    (ready.setInput [.noKey, .noKey, answer, .error]).input = List.replicate 2 .noKey ++ answer :: [.error] :=
  ⟨rfl, rfl⟩

theorem witness_InEmitsThePromptAndEchoesTheKey (answer : InputAnswer) :
    (ready.setInput [answer]).input = List.replicate 0 .noKey ++ answer :: [] ∧
    (ready.setInput [.noKey, answer]).input = List.replicate 1 .noKey ++ answer :: [] :=
  ⟨rfl, rfl⟩

theorem witness_BlockingReadWaitsForTheSource (answer : InputAnswer) :
    (ready.input = List.replicate 0 .noKey ∧ (ready.setInput [.noKey]).input = List.replicate 1 .noKey) ∧
    ((ready.setPhase .waitGetc).phase = .waitGetc ∧ (ready.setPhase .waitIn).phase = .waitIn ∧
      (ready.setPhase .waitIn).input = List.replicate 0 .noKey) ∧
    (((ready.setPhase .waitIn).setInput [answer]).phase = .waitIn ∧
      ((ready.setPhase .waitIn).setInput [answer]).input = List.replicate 0 .noKey ++ answer :: []) :=
  ⟨⟨rfl, rfl⟩, ⟨rfl, rfl, rfl⟩, rfl, rfl⟩

/-- `n` cells from `lo` on, each holding 1. -/
def ones (lo n : Nat) : Memory := (List.range' lo n).map (fun k => (k, 1#16))

theorem lookup_ones (n : Nat) : ∀ lo a, lookupCell (ones lo n) a = if lo ≤ a ∧ a < lo + n then 1#16 else 0#16 := by
  induction n with
  | zero => intro lo a; rw [if_neg (by omega)]; rfl
  | succ n ih =>
    intro lo a
    have h := ih (lo + 1) a
    simp only [ones, List.range'_succ, List.map_cons, lookupCell] at h ⊢
    rw [h]
    by_cases hla : lo = a
    · rw [if_pos hla, if_pos (by omega)]
    · rw [if_neg hla]
      exact if_congr (by omega) rfl rfl

theorem read_ones (n : Nat) (a : Word) : Memory.read (ones 0 n) a = if a.toNat < n then 1#16 else 0#16 := by
  simp [Memory.read, lookup_ones]

/-- The longest string there is: every cell but the last holds a character, R0 names cell 0. -/
def longString (c : Config) : State := withConfig c (ready.setMem (ones 0 65535))

/-- The hypotheses of both string statements, for the empty string, for the longest one, and for intercepted reads. -/
theorem strings_end :
    (ready.mem.read (ready.reg 0 + BitVec.ofNat 16 0) = 0#16 ∧
      readyIntercepted.mem.read (readyIntercepted.reg 0 + BitVec.ofNat 16 0) = 0#16 ∧
      ∀ k ≤ 0, readyIntercepted.reg 0 + BitVec.ofNat 16 k ≠ readyIntercepted.config.kbsrAddr) ∧
    ((∀ k < 65535, (longString base.config).mem.read ((longString base.config).reg 0 + BitVec.ofNat 16 k) ≠ 0#16) ∧
      (longString base.config).mem.read ((longString base.config).reg 0 + BitVec.ofNat 16 65535) = 0#16 ∧
      (longString base.config).config.stringReadsIntercepted = false) := by
  refine ⟨by decide, fun k hk => ?_, ?_, rfl⟩
  · show Memory.read (ones 0 65535) (0#16 + BitVec.ofNat 16 k) ≠ 0#16
    rw [read_ones, if_pos (by simp; omega)]
    decide
  · show Memory.read (ones 0 65535) (0#16 + BitVec.ofNat 16 65535) = 0#16
    rw [read_ones, if_neg (by decide)]

/-- A table that shows one cell value as two bytes. -/
def tableConfig : Config := { base.config with putsCharTable := [(2#16, []), (0x141#16, [1#8, 0x41#8])] }

theorem witness_PutsEmitsTheStringAtR0 :
    ((∀ k < 65535, (longString base.config).mem.read ((longString base.config).reg 0 + BitVec.ofNat 16 k) ≠ 0#16) ∧
      (longString base.config).mem.read ((longString base.config).reg 0 + BitVec.ofNat 16 65535) = 0#16 ∧
      (longString base.config).config.stringReadsIntercepted = false) ∧
    (∀ e ∈ tableConfig.putsCharTable, e.1 ≠ 3#16) ∧
    (tableConfig.putsCharTable = [(2#16, [])] ++ (0x141#16, [1#8, 0x41#8]) :: [] ∧
      ∀ e ∈ [((2#16 : Word), ([] : List Byte))], e.1 ≠ 0x141#16) :=
  ⟨strings_end.2, by decide, by decide⟩

theorem witness_PutspEmitsThePackedStringAtR0 :
    ready.mem.read (ready.reg 0 + BitVec.ofNat 16 0) = 0#16 ∧
    readyIntercepted.mem.read (readyIntercepted.reg 0 + BitVec.ofNat 16 0) = 0#16 ∧
    (∀ k ≤ 0, readyIntercepted.reg 0 + BitVec.ofNat 16 k ≠ readyIntercepted.config.kbsrAddr) ∧
    (∀ k < 65535, (longString base.config).mem.read ((longString base.config).reg 0 + BitVec.ofNat 16 k) ≠ 0#16) ∧
    (longString base.config).mem.read ((longString base.config).reg 0 + BitVec.ofNat 16 65535) = 0#16 :=
  ⟨strings_end.1.1, strings_end.1.2.1, strings_end.1.2.2, strings_end.2.1, strings_end.2.2.1⟩

theorem witness_UnterminatedStringNeverEnds :
    let s := ready.setMem (ones 0 65536)
    s.config.stringReadsIntercepted = false ∧ (∀ a, s.mem.read a ≠ 0#16) ∧
    (s.setPhase (.inPuts 0xFFFF#16)).phase = .inPuts 0xFFFF#16 ∧
    (s.setPhase (.inPutsp 0#16)).phase = .inPutsp 0#16 := by
  refine ⟨rfl, fun a => ?_, rfl, rfl⟩
  show Memory.read (ones 0 65536) a ≠ 0#16
  rw [read_ones, if_pos a.isLt]
  decide

/-- R0 one cell below KBSR, at a cell that holds a character; string reads are intercepted. -/
def overStatus (l : List InputAnswer) : State :=
  ((readyIntercepted.setReg 0 0xFDFF#16).write 0xFDFF#16 0x48#16).setInput l

theorem overStatus_cells (l : List InputAnswer) : DeviceCells (overStatus l) :=
  have h : (overStatus []).mem.wf = true := by decide
  have ne : base.config.kbsrAddr ≠ base.config.kbdrAddr := by decide
  ⟨h, ne⟩

/-- No cell reads 0x0000, before the poll or after it. -/
def endless : State := (readyIntercepted.setMem (ones 0 65536)).setInput [.key 0x41#8]

theorem cells_ones (n : Nat) : ∀ lo, lo + n ≤ memCells → cellsFrom lo (ones lo n) = true := by
  induction n with
  | zero => intro lo _; rfl
  | succ n ih =>
    intro lo h
    simp only [ones, List.range'_succ, List.map_cons, cellsFrom]
    simp [show lo < memCells by omega, unlisted, show (1#16 : Word) ≠ 0#16 by decide]
    exact ih (lo + 1) (by omega)

theorem endless_cells : DeviceCells endless :=
  have ne : base.config.kbsrAddr ≠ base.config.kbdrAddr := by decide
  ⟨cells_ones 65536 0 (by decide), ne⟩

theorem endless_reads (a : Word) : cellAfterPoll (.key 0x41#8) endless a ≠ 0#16 := by
  have h : endless.mem.read a = 1#16 := by
    show Memory.read (ones 0 65536) a = 1#16
    rw [read_ones, if_pos a.isLt]
  simp only [cellAfterPoll, statusOf, h]
  split
  · decide
  · split <;> decide

theorem witness_InterceptedStringReadPolls :
    (∀ answer, DeviceCells (overStatus [answer]) ∧ (overStatus [answer]).config.stringReadsIntercepted = true ∧
      PollAnswer answer [] 0 (overStatus [answer]) ∧ (overStatus [answer]).reg 0 = 0xFDFF#16) ∧
    (StringOverStatus 0xFDFF#16 1 1 .noKey (overStatus [.noKey]) ∧
      StringOverStatus 0xFDFF#16 1 1 .interrupted (overStatus [.interrupted]) ∧
      StringOverStatus 0xFDFF#16 1 1 .error (overStatus [.error]) ∧
      StringOverStatus 0xFE00#16 0 0 .noKey (overStatus [.noKey]) ∧
      StringOverStatus 0xFDFF#16 1 2 (.key 0x41#8) (overStatus [.key 0x41#8])) ∧
    (StringOverStatus 0xFE00#16 0 65536 (.key 0x41#8) endless ∧ DeviceCells endless ∧
      (endless.setPhase (.inPuts 0xFE00#16)).phase = .inPuts 0xFE00#16 ∧
      (endless.setPhase (.inPutsp 0xFE00#16)).phase = .inPutsp 0xFE00#16) := by
  refine ⟨fun answer => ⟨overStatus_cells _, rfl, .inl ⟨rfl, rfl⟩, rfl⟩, ?_, ?_, endless_cells, rfl, rfl⟩
  · refine ⟨?_, ?_, ?_, ?_, ?_⟩
    all_goals
      refine ⟨by decide, by decide, by decide, by decide, by decide, fun j h h' => ?_, by decide⟩
      first
        | omega
        | rw [show j = 1 by omega]; decide
  · refine ⟨by decide, by decide, le_refl _, by decide, fun j h => absurd h (by omega), fun j _ _ => ?_,
      fun h => absurd h (by omega)⟩
    exact endless_reads _

theorem witness_ReadReturnsTheLatestWrite :
    Memory.wf [] = true ∧ Memory.wf [(0, 1#16), (65535, 0xFFFF#16)] = true ∧ (0xFFFF#16 : Word) ≠ 0#16 := by decide

theorem witness_OnlyKeyboardStatusReadsHaveSideEffects (answer : InputAnswer) :
    (0xFE02#16 : Word) ≠ ready.config.kbsrAddr ∧ (0xFFFF#16 : Word) ≠ ready.config.kbsrAddr ∧
    (PollAnswer answer [] 0 (pcAtDevice [answer]) ∧ PollAnswer (Config.pollBeyond 0) [] 1 (pcAtDevice [])) ∧
    (∀ l, DeviceCells (pcAtDevice l)) :=
  ⟨by decide, by decide, (poll_answers answer).1, fun l => (device_facts l).1.1⟩

theorem witness_OtherInstructionsMakeNoInputRequest :
    (∃ t, exec (.str 1 2 0b100000#6) ready = .next t) ∧ (∃ t, exec .halt ready = .next t) :=
  ⟨⟨_, rfl⟩, ⟨_, rfl⟩⟩

theorem witness_OnlyTheOutputRoutinesEmit :
    (∃ t, exec .getc ready = .next t) ∧ (∃ t, exec (.trap 0xFF#8) ready = .next t) := ⟨⟨_, rfl⟩, ⟨_, rfl⟩⟩

theorem witness_OnlyStoresAndPollsWriteMemory :
    ((atDevice [.noKey]).mem.wf = true ∧ (∃ t, exec (.ldi 0 0#9) (atDevice [.noKey]) = .next t)) ∧
    (∃ t, exec (.ldi 0 1#9) (atDevice [.noKey]) = .next t ∧ t.input = (atDevice [.noKey]).input ∧
      t.draws = (atDevice [.noKey]).draws) :=
  ⟨⟨(device_facts _).2.1.1, ⟨_, rfl⟩⟩, ⟨_, rfl, by decide, by decide⟩⟩

theorem witness_StepRunsTheDecodedInstruction :
    (AtLoop ready ∧ ready.pc ≠ ready.config.kbsrAddr ∧ ready.config.cycleCounterPhase = .afterExecute ∧
      ∃ t, exec (decode ((bumpAt .beforeFetch ready).mem.read ready.pc)) (handlerStart ready) = .next t) ∧
    (AtLoop readyBefore ∧ readyBefore.pc ≠ readyBefore.config.kbsrAddr ∧
      readyBefore.config.cycleCounterPhase = .beforeFetch) ∧
    (AtLoop readyOff ∧ readyOff.config.cycleCounterEnabled = false) :=
  ⟨⟨atLoop_ready.1, by decide, rfl, ⟨_, rfl⟩⟩, ⟨atLoop_ready.2.1, by decide, rfl⟩, atLoop_ready.2.2, rfl⟩

theorem witness_FetchOfKeyboardStatusExecutesTheStatus (answer : InputAnswer) :
    (∀ l, AtLoop (pcAtDevice l) ∧ DeviceCells (pcAtDevice l) ∧ (pcAtDevice l).pc = (pcAtDevice l).config.kbsrAddr) ∧
    (PollAnswer answer [] 0 (pcAtDevice [answer]) ∧ PollAnswer (Config.pollBeyond 0) [] 1 (pcAtDevice [])) ∧
    (ready.config.cycleCounterEnabled = true ∧ ready.config.cycleCounterPhase = .afterExecute ∧
      readyBefore.config.cycleCounterEnabled = true ∧ readyBefore.config.cycleCounterPhase = .beforeFetch ∧
      readyOff.config.cycleCounterEnabled = false) :=
  ⟨fun l => ⟨⟨rfl, rfl⟩, (device_facts l).1.1, rfl⟩, (poll_answers answer).1, rfl, rfl, rfl, rfl, rfl⟩

theorem witness_HandlersSeeTheIncrementedPc :
    (ready.setPc 0xFFFF#16).pc = 0xFFFF#16 ∧
    (∀ w : Word, AtLoop (holding ready w)) ∧
    decode ((bumpAt .beforeFetch (holding ready 0xE1FF#16)).mem.read 0x3000#16) = .lea 0 0x1FF#9 ∧
    decode ((bumpAt .beforeFetch (holding ready 0x4C00#16)).mem.read 0x3000#16) = .jsr 0x400#11 ∧
    decode ((bumpAt .beforeFetch (holding ready 0x41C0#16)).mem.read 0x3000#16) = .jsrr 7 ∧
    (0x3000#16 : Word) ≠ ready.config.kbsrAddr :=
  ⟨rfl, fun _ => ⟨rfl, rfl⟩, by decide, by decide, by decide, by decide⟩

theorem witness_CounterIsBumpedOncePerIteration :
    (AtLoop ready ∧ ready.mem.wf = true ∧ ready.config.cycleCounterPhase = .afterExecute ∧
      ready.config.cycleCounterEnabled = true ∧
      ∃ u, exec (decode (fetch ready).1) (fetch ready).2 = .next u ∧ u.phase = .loopCheck) ∧
    (AtLoop readyOff ∧ readyOff.mem.wf = true ∧ readyOff.config.cycleCounterPhase = .afterExecute ∧
      readyOff.config.cycleCounterEnabled = false ∧
      ∃ u, exec (decode (fetch readyOff).1) (fetch readyOff).2 = .next u ∧ u.phase = .loopCheck) :=
  ⟨⟨atLoop_ready.1, by decide, rfl, rfl, ⟨_, rfl, by decide⟩⟩,
    atLoop_ready.2.2, by decide, rfl, rfl, ⟨_, rfl, by decide⟩⟩

theorem witness_CounterBumpedBeforeFetchIsFetched :
    (AtLoop readyBefore ∧ readyBefore.mem.wf = true ∧ readyBefore.config.cycleCounterEnabled = true ∧
      readyBefore.config.cycleCounterPhase = .beforeFetch) ∧
    (AtLoop (readyBefore.setPc 0xFFFF#16) ∧ (readyBefore.setPc 0xFFFF#16).mem.wf = true ∧
      (readyBefore.setPc 0xFFFF#16).pc = readyBefore.config.cycleCounterAddr ∧
      (readyBefore.setPc 0xFFFF#16).pc ≠ readyBefore.config.kbsrAddr) :=
  ⟨⟨atLoop_ready.2.1, by decide, rfl, rfl⟩, ⟨rfl, rfl⟩, by decide, rfl, by decide⟩

theorem witness_RunLoopTestsRunningBeforeEachIteration :
    base.phase = .beforeRun ∧ AtLoop ready ∧
    ((ready.setRunning false).phase = .loopCheck ∧ (ready.setRunning false).running = false) ∧
    (∃ t, exec .halt ready = .next t) ∧ (∃ t, exec .halt (ready.setRunning false) = .next t) :=
  ⟨rfl, atLoop_ready.1, ⟨rfl, rfl⟩, ⟨_, rfl⟩, ⟨_, rfl⟩⟩

theorem witness_ClearingRunningCompletesTheIteration :
    (AtLoop (holding ready 0xF025#16) ∧ (holding ready 0xF025#16).pc ≠ ready.config.kbsrAddr ∧
      ∃ u, exec (decode ((bumpAt .beforeFetch (holding ready 0xF025#16)).mem.read 0x3000#16))
        (handlerStart (holding ready 0xF025#16)) = .next u ∧ u.phase = .loopCheck ∧ u.running = false) ∧
    ((ready.setInput [.interrupted]).input = .interrupted :: [] ∧
      ((ready.setPhase .waitGetc).setInput [.interrupted]).phase = .waitGetc) ∧
    ((pcAtDevice [.interrupted]).mem.wf = true ∧ AtLoop (pcAtDevice [.interrupted]) ∧
      PollAnswer .interrupted [] 0 (pcAtDevice [.interrupted]) ∧
      (pcAtDevice [.interrupted]).pc = (pcAtDevice [.interrupted]).config.kbsrAddr ∧
      pcRelative 0#9 (pcAtDevice [.interrupted]) = (pcAtDevice [.interrupted]).config.kbsrAddr) ∧
    ((atDevice [.interrupted]).mem.wf = true ∧ (atDevice [.interrupted]).phase = .loopCheck ∧
      PollAnswer .interrupted [] 0 (atDevice [.interrupted]) ∧
      baseOffset 0 0#6 (atDevice [.interrupted]) = (atDevice [.interrupted]).config.kbsrAddr ∧
      (atDevice [.interrupted]).mem.read (pcRelative 0#9 (atDevice [.interrupted]))
        = (atDevice [.interrupted]).config.kbsrAddr) ∧
    ((overStatus [.interrupted]).mem.wf = true ∧ (overStatus [.interrupted]).phase = .loopCheck ∧
      PollAnswer .interrupted [] 0 (overStatus [.interrupted]) ∧
      (overStatus [.interrupted]).config.stringReadsIntercepted = true ∧
      (overStatus [.interrupted]).reg 0 + BitVec.ofNat 16 1 = (overStatus [.interrupted]).config.kbsrAddr ∧
      ∀ j < 1, (overStatus [.interrupted]).mem.read ((overStatus [.interrupted]).reg 0 + BitVec.ofNat 16 j) ≠ 0#16) :=
  have h := device_facts [.interrupted]
  have p := poll_answers .interrupted
  ⟨⟨⟨rfl, rfl⟩, by decide, ⟨_, rfl, by decide, by decide⟩⟩, ⟨rfl, rfl⟩,
    ⟨h.1.1.1, ⟨rfl, rfl⟩, p.1.1, rfl, h.1.2⟩, ⟨h.2.1.1, rfl, p.2.1, h.2.2.1, h.2.2.2.2⟩,
    by decide, rfl, .inl ⟨rfl, rfl⟩, rfl, by decide, by decide⟩

theorem witness_EndedCoreStaysEnded : (base.setPhase .ended).phase = .ended := rfl

theorem witness_FetchSeesTheEarlierStore :
    let s := holding ready 0x3400#16
    AtLoop s ∧ s.mem.wf = true ∧ s.pc ≠ s.config.kbsrAddr ∧ s.pc + 1#16 ≠ s.config.kbsrAddr ∧
    s.pc + 1#16 ≠ s.config.cycleCounterAddr ∧ s.config.cycleCounterPhase = .afterExecute ∧
    decode (s.mem.read s.pc) = .st 2 0#9 :=
  ⟨⟨rfl, rfl⟩, by decide, by decide, by decide, by decide, rfl, by decide⟩

theorem witness_PlacedWordIsTheNextInstruction :
    State.reset.mem.wf = true ∧ State.reset.pc ≠ State.reset.config.kbsrAddr ∧ (pcAtDevice []).mem.wf = true ∧
    (readyBefore.setPc 0xFFFF#16).mem.wf = true := by decide

theorem witness_ResetMeetsTheInvariant : Memory.wf [(0x3000, 0x1025#16), (0x3001, 0xF025#16)] = true := by decide

theorem inv_ready : Inv ready := ⟨by decide, by decide, by decide⟩

theorem witness_EveryStepKeepsTheInvariant : Inv ready ∧ ∃ t, step ready = .next t := ⟨inv_ready, ⟨_, rfl⟩⟩

theorem witness_NoStepChangesTheParameters : ∃ t, step ready = .next t := ⟨_, rfl⟩

theorem witness_StreamsOnlyGrowAndInputIsConsumedInOrder : ∃ t, Host.Core.run Sys2Proof.core 2 ready = .next t :=
  ⟨_, rfl⟩

theorem witness_OnlyHaltAndInterruptsClearRunning :
    (∃ t, step (holding ready 0xF025#16) = .next t ∧ (holding ready 0xF025#16).running = true ∧ t.running = false) ∧
    (∃ t, step (pcAtDevice [.interrupted]) = .next t ∧ (pcAtDevice [.interrupted]).running = true ∧
      t.running = false) :=
  ⟨⟨_, rfl, rfl, by decide⟩, ⟨_, rfl, rfl, by decide⟩⟩

theorem witness_DiagnosticsChangeNothingElse :
    (AtLoop (holding ready 0x8FFF#16) ∧ (holding ready 0x8FFF#16).mem.wf = true ∧
      ready.config.cycleCounterPhase = .afterExecute ∧ ready.config.cycleCounterEnabled = true ∧
      ∃ u, exec (decode (fetch (holding ready 0x8FFF#16)).1) (fetch (holding ready 0x8FFF#16)).2 = .next u ∧
        u.phase = .loopCheck ∧ u.diag ≠ (holding ready 0x8FFF#16).diag) ∧
    (∃ t, step ready = .next t) ∧ (∃ t, step (ready.withDiag [.inputError]) = .next t) :=
  ⟨⟨⟨rfl, rfl⟩, by decide, rfl, rfl, ⟨_, rfl, by decide, by decide⟩⟩, ⟨_, rfl⟩, ⟨_, rfl⟩⟩

theorem witness_OutputIsNeverReadBack :
    (∃ t, step ready = .next t) ∧ (∃ t, step (ready.withOut [0x41#8]) = .next t) := ⟨⟨_, rfl⟩, ⟨_, rfl⟩⟩

theorem witness_ImageFillsItsCellsAndNoOther :
    (0xFFFE#16).toNat + [(0x1025#16 : Word), 0xF025#16].length ≤ 65536 ∧
    (0x0000#16).toNat < (0xFFFE#16).toNat ∧ (0x3000#16).toNat + 2 ≤ (0x3002#16).toNat := by decide

end Sys2Proof.Machine.Tests
end

namespace Sys2Proof.Machine

/-! ### No operation stops the machine (00_scope.md R16, 60_exceptions.md R240)

Every handler ends in a next state, so an iteration does, so a step does from whatever phase, so a run does. -/

/-- Each handler is total: what it does is the equation of its instruction. -/
theorem exec_exists_next (i : Instr) (s : State) : ∃ t, exec i s = .next t := by
  cases i with
  | br n z p f => exact ⟨_, exec_br s n z p f⟩
  | addReg d a b => exact ⟨_, exec_addReg s d a b⟩
  | addImm d a f => exact ⟨_, exec_addImm s d a f⟩
  | ld d f => exact ⟨_, exec_ld s d f⟩
  | st r f => exact ⟨_, exec_st s r f⟩
  | jsr f => exact ⟨_, exec_jsr s f⟩
  | jsrr b => exact ⟨_, exec_jsrr s b⟩
  | andReg d a b => exact ⟨_, exec_andReg s d a b⟩
  | andImm d a f => exact ⟨_, exec_andImm s d a f⟩
  | ldr d b f => exact ⟨_, exec_ldr s d b f⟩
  | str r b f => exact ⟨_, exec_str s r b f⟩
  | rti => exact ⟨_, exec_rti s⟩
  | not d a => exact ⟨_, exec_not s d a⟩
  | ldi d f => exact ⟨_, exec_ldi s d f⟩
  | sti r f => exact ⟨_, exec_sti s r f⟩
  | jmp b => exact ⟨_, exec_jmp s b⟩
  | res => exact ⟨_, exec_res s⟩
  | lea d f => exact ⟨_, exec_lea s d f⟩
  | trap code => exact ⟨_, exec_trap s code⟩
  | getc => exact ⟨_, exec_getc s⟩
  | out => exact ⟨_, exec_out s⟩
  | puts => exact ⟨_, exec_puts s⟩
  | inp => exact ⟨_, exec_inp s⟩
  | putsp => exact ⟨_, exec_putsp s⟩
  | halt => exact ⟨_, exec_halt s⟩

/-- An iteration ends in a next state because the handler of the fetched word does. -/
theorem iterate_exists_next (s : State) : ∃ t, iterate s = .next t := by
  obtain ⟨t, ht⟩ := exec_exists_next (decode (fetch (bumpAt .beforeFetch s)).1) (fetch (bumpAt .beforeFetch s)).2
  exact ⟨endIteration t, iterate_next ht⟩

/-- A step from each phase ends in a next state; only at the loop check with RUNNING true does it run an iteration. -/
theorem step_exists_next (s : State) : ∃ t, step s = .next t := by
  cases hp : s.phase with
  | beforeRun => exact ⟨_, step_beforeRun hp⟩
  | loopCheck =>
    cases hr : s.running with
    | false => exact ⟨_, step_returns hp hr⟩
    | true => rw [step_iterate hp hr]; exact iterate_exists_next s
  | waitGetc => exact ⟨_, step_waitGetc hp⟩
  | waitIn => exact ⟨_, step_waitIn hp⟩
  | inPuts a => exact ⟨_, step_inPuts hp⟩
  | inPutsp a => exact ⟨_, step_inPutsp hp⟩
  | ended => exact ⟨_, step_ended hp⟩

/-- A run ends in a next state, by induction on its steps from whatever state it starts in. -/
theorem run_exists_next (k : Nat) (s : State) : ∃ t, Host.Core.run Sys2Proof.core k s = .next t := by
  induction k generalizing s with
  | zero => exact ⟨s, rfl⟩
  | succ k ih =>
    obtain ⟨u, hu⟩ := step_exists_next s
    rw [run_succ k hu]
    exact ih u

/-- Settles O50: every handler, every step and, by induction on its length, every run answers a next state. -/
theorem noOperationEverStopsTheMachine : Obligations.NoOperationEverStopsTheMachine :=
  ⟨exec_exists_next, step_exists_next, run_exists_next⟩

end Sys2Proof.Machine

namespace Sys2Proof.Machine

/-! ### Signed operand fields (30_encoding.md R84)

What `sext` does to a field of any width, and what adding the extended field to a word does; the four widths of the
encoding and the four address sums are instances. -/

/-- Sign extension loses no value, and the value of a field of `m + 1` bits lies in the two's-complement range; every
bit from the field's sign bit on is that sign bit. -/
theorem sext_keeps_value_and_copies_sign {m : Nat} (hm : m < 16) (f : BitVec (m + 1)) :
    (sext f).toInt = f.toInt ∧ -2 ^ m ≤ (sext f).toInt ∧ (sext f).toInt ≤ 2 ^ m - 1 ∧
      ∀ i < 16, (sext f).getLsbD i = if i < m + 1 then f.getLsbD i else f.getLsbD m := by
  have hv : (sext f).toInt = f.toInt := BitVec.toInt_signExtend_of_le hm
  refine ⟨hv, hv ▸ f.le_toInt, hv ▸ Int.le_sub_one_of_lt f.toInt_lt, fun i hi => ?_⟩
  rw [sext, BitVec.getLsbD_signExtend, decide_eq_true hi, Bool.true_and, BitVec.msb_eq_getLsbD_last, Nat.add_sub_cancel]

/-- Adding an extended field adds its signed value. -/
theorem add_sext {n : Nat} (a : Word) (f : BitVec n) : a + sext f = BitVec.ofInt 16 (a.toNat + f.toInt) := by
  rw [BitVec.ofInt_add, BitVec.ofInt_natCast, BitVec.ofNat_toNat, BitVec.setWidth_eq]; rfl

/-- The sum of a word and an extended field is taken modulo 65,536. -/
theorem toNat_add_sext {n : Nat} (a : Word) (f : BitVec n) :
    ((a + sext f).toNat : Int) = (a.toNat + f.toInt) % 65536 := by
  rw [add_sext, BitVec.toNat_ofInt]
  omega

/-! ### What trap entry does to the registers (44_trap.md R200) -/

theorem regsSameBut_trapEntry (s : State) : RegsSameBut [7] s (trapEntry s) := by
  intro r hr
  have hr7 : r ≠ 7 := by simpa using hr
  simp [trapEntry_reg, hr7]

theorem trapLink_trapEntry (s : State) : TrapLink s (trapEntry s) := by
  simp [TrapLink, trapEntry_reg]

/-- Settles O5: the four widths and the sums are instances of the lemmas on `sext`, and a trap writes what its entry does. -/
theorem signedFieldsAreSignExtended : Obligations.SignedFieldsAreSignExtended := by
  refine ⟨sext_keeps_value_and_copies_sign (m := 4) (by decide), sext_keeps_value_and_copies_sign (m := 5) (by decide),
    sext_keeps_value_and_copies_sign (m := 8) (by decide), sext_keeps_value_and_copies_sign (m := 10) (by decide),
    by decide, fun dr sr1 f s => ?_, fun dr sr1 f s => ?_, fun f s => toNat_add_sext s.pc f,
    fun r f s => toNat_add_sext (s.reg r) f, fun f s => ?_, fun code s => ?_⟩
  · exact ⟨_, exec_addImm s dr sr1 f, by simp, by simpa using toNat_add_sext (s.reg sr1) f⟩
  · exact ⟨_, exec_andImm s dr sr1 f, by simp⟩
  · exact ⟨_, exec_jsr s f, toNat_add_sext s.pc f⟩
  · exact ⟨_, exec_trap s code, by simp, regsSameBut_trapEntry s, trapLink_trapEntry s⟩

end Sys2Proof.Machine

namespace Sys2Proof.Machine

/-! ### The state a handler starts in (40_dispatcher.md R111, R113)

PC after the fetch, what the PC-relative sums over it are, and a step as the handler of the word under PC. -/

/-- An outcome is at most one next state. -/
theorem next_unique {o : Host.Outcome State Fault Refusal} {u t : State} (hu : o = .next u) (ht : o = .next t) : u = t :=
  Host.Outcome.next.inj (hu.symm.trans ht)

/-- Adding a field to the incremented PC adds 1 and the field's signed value, modulo 65,536 wherever PC stands. -/
theorem incremented_add_sext {n : Nat} (a : Word) (f : BitVec n) :
    a + 1#16 + sext f = BitVec.ofInt 16 (a.toNat + 1 + f.toInt) := by
  rw [BitVec.add_assoc, BitVec.add_comm 1#16, ← BitVec.add_assoc, add_sext, Int.add_right_comm, BitVec.ofInt_add _ 1]
  rfl

@[simp] theorem fetch_pc (s : State) : (fetch s).2.pc = s.pc + 1#16 := rfl

@[simp] theorem handlerStart_pc (s : State) : (handlerStart s).pc = s.pc + 1#16 := by simp [handlerStart]

/-- A fetch away from `KBSR_ADDR`, after the bump before it, answers the word under PC and starts the handler. -/
theorem fetch_bumped {s : State} (h : s.pc ≠ s.config.kbsrAddr) :
    fetch (bumpAt .beforeFetch s) = ((bumpAt .beforeFetch s).mem.read s.pc, handlerStart s) := by
  simpa [handlerStart] using fetch_plain (s := bumpAt .beforeFetch s) (by simpa using h)

/-- Away from `KBSR_ADDR` a step at the loop check is the handler of the word under PC, then the iteration's end. -/
theorem step_handlerStart {s u : State} (hl : AtLoop s) (hpc : s.pc ≠ s.config.kbsrAddr)
    (hx : exec (decode ((bumpAt .beforeFetch s).mem.read s.pc)) (handlerStart s) = .next u) :
    step s = .next (endIteration u) := by
  rw [step_iterate hl.1 hl.2]
  exact iterate_next (by rwa [fetch_bumped hpc])

@[simp] theorem link_reg (s : State) (j : RegIndex) : (link s).reg j = if j = 7 then s.pc else s.reg j := by simp [link]

/-- Settles O42: the fetch increments PC, so LEA, JSR and JSRR, started in the fetched state, use PC + 1. -/
theorem handlersSeeTheIncrementedPc : Obligations.HandlersSeeTheIncrementedPc := by
  refine ⟨fun s => by simp, fun s hs => by simp [hs], fun s f => incremented_add_sext s.pc f,
    fun s hl hpc t ht => ⟨fun dr f hd => ?_, fun f hd => ?_, fun b hd => ?_⟩⟩
  · obtain rfl := next_unique (step_handlerStart hl hpc (hd ▸ exec_lea _ dr f)) ht
    simp [pcRelative, incremented_add_sext]
  · obtain rfl := next_unique (step_handlerStart hl hpc (hd ▸ exec_jsr _ f)) ht
    simp [incremented_add_sext]
  · obtain rfl := next_unique (step_handlerStart hl hpc (hd ▸ exec_jsrr _ b)) ht
    simp

end Sys2Proof.Machine

namespace Sys2Proof.Machine

/-! ### The fields no handler reads

RUNNING, OUT and DIAG are written by handlers and read by none (40_dispatcher.md R110, R123; 44_trap.md R230). States
that differ in one of them alone agree on every field a handler reads, every update of the state keeps that agreement,
and so does, operation by operation, all that is built of them. -/

/-- The fields of the state that handlers write and never read. -/
inductive UnreadField where
  | running
  | out
  | diag

/-- The state with one of these fields blanked. -/
def State.blank (s : State) : UnreadField → State
  | .running => s.setRunning false
  | .out => s.withOut []
  | .diag => s.withDiag []

/-- The two states are equal but for one field that no handler reads. For RUNNING this is `SameButRunning`. -/
def SameBut (k : UnreadField) (s s' : State) : Prop := s.blank k = s'.blank k

theorem sameBut_running_iff {s s' : State} : SameBut .running s s' ↔ SameButRunning s s' := Iff.rfl

theorem sameBut_setRunning (s : State) (b : Bool) : SameBut .running s (s.setRunning b) := rfl

theorem sameBut_withOut (s : State) (o : List Byte) : SameBut .out s (s.withOut o) := rfl

theorem sameBut_withDiag (s : State) (d : List DiagKind) : SameBut .diag s (s.withDiag d) := rfl

namespace SameBut

variable {k : UnreadField} {s s' : State}

/-! #### What such states agree on -/

theorem read {α : Type} (h : SameBut k s s') (f : State → α) (hf : ∀ u, f (u.blank k) = f u) : f s = f s' :=
  (hf s).symm.trans ((congrArg f h).trans (hf s'))

theorem reg (h : SameBut k s s') (i : RegIndex) : s.reg i = s'.reg i :=
  h.read (State.reg · i) fun _ => by cases k <;> rfl

theorem pc (h : SameBut k s s') : s.pc = s'.pc := h.read State.pc fun _ => by cases k <;> rfl

theorem cond (h : SameBut k s s') : s.cond = s'.cond := h.read State.cond fun _ => by cases k <;> rfl

theorem mem (h : SameBut k s s') : s.mem = s'.mem := h.read State.mem fun _ => by cases k <;> rfl

theorem phase (h : SameBut k s s') : s.phase = s'.phase := h.read State.phase fun _ => by cases k <;> rfl

theorem input (h : SameBut k s s') : s.input = s'.input := h.read State.input fun _ => by cases k <;> rfl

theorem config (h : SameBut k s s') : s.config = s'.config := h.read State.config fun _ => by cases k <;> rfl

theorem draws (h : SameBut k s s') : s.draws = s'.draws := h.read State.draws fun _ => by cases k <;> rfl

/-! #### Every update keeps the agreement -/

/-- An update that takes nothing from the blanked field keeps the agreement, also when it writes that field. -/
theorem update (h : SameBut k s s') (u : State → State) (hu : ∀ v, (u v).blank k = (u (v.blank k)).blank k) :
    SameBut k (u s) (u s') :=
  (hu s).trans ((congrArg (fun v => (u v).blank k) h).trans (hu s').symm)

theorem setReg (h : SameBut k s s') (i : RegIndex) {v v' : Word} (hv : v = v') :
    SameBut k (s.setReg i v) (s'.setReg i v') :=
  hv ▸ h.update (State.setReg · i v) fun _ => by cases k <;> rfl

theorem setPc (h : SameBut k s s') {v v' : Word} (hv : v = v') : SameBut k (s.setPc v) (s'.setPc v') :=
  hv ▸ h.update (State.setPc · v) fun _ => by cases k <;> rfl

theorem setCond (h : SameBut k s s') {c c' : Cond} (hc : c = c') : SameBut k (s.setCond c) (s'.setCond c') :=
  hc ▸ h.update (State.setCond · c) fun _ => by cases k <;> rfl

theorem setMem (h : SameBut k s s') {m m' : Memory} (hm : m = m') : SameBut k (s.setMem m) (s'.setMem m') :=
  hm ▸ h.update (State.setMem · m) fun _ => by cases k <;> rfl

theorem setIr (h : SameBut k s s') {w w' : Option Word} (hw : w = w') : SameBut k (s.setIr w) (s'.setIr w') :=
  hw ▸ h.update (State.setIr · w) fun _ => by cases k <;> rfl

/-- What is emitted goes to the end of OUT, whatever OUT holds. -/
theorem emit (h : SameBut k s s') {b b' : List Byte} (hb : b = b') : SameBut k (s.emit b) (s'.emit b') :=
  hb ▸ h.update (State.emit · b) fun _ => by cases k <;> rfl

theorem setRunning (h : SameBut k s s') (b : Bool) : SameBut k (s.setRunning b) (s'.setRunning b) :=
  h.update (State.setRunning · b) fun _ => by cases k <;> rfl

theorem setPhase (h : SameBut k s s') (p : Phase) : SameBut k (s.setPhase p) (s'.setPhase p) :=
  h.update (State.setPhase · p) fun _ => by cases k <;> rfl

theorem setInput (h : SameBut k s s') (l : List InputAnswer) : SameBut k (s.setInput l) (s'.setInput l) :=
  h.update (State.setInput · l) fun _ => by cases k <;> rfl

/-- What is reported goes to the end of DIAG, whatever DIAG holds. -/
theorem report (h : SameBut k s s') (d : DiagKind) : SameBut k (s.report d) (s'.report d) :=
  h.update (State.report · d) fun _ => by cases k <;> rfl

theorem nextDraw (h : SameBut k s s') : SameBut k s.nextDraw s'.nextDraw :=
  h.update State.nextDraw fun _ => by cases k <;> rfl

theorem write (h : SameBut k s s') {a a' v v' : Word} (ha : a = a') (hv : v = v') :
    SameBut k (s.write a v) (s'.write a' v') := by
  subst ha hv
  exact h.setMem (congrArg (Memory.write · a v) h.mem)

theorem setRegCC (h : SameBut k s s') (i : RegIndex) {v v' : Word} (hv : v = v') :
    SameBut k (s.setRegCC i v) (s'.setRegCC i v') :=
  (h.setReg i hv).setCond (congrArg condOf hv)

/-! #### The read paths -/

theorem poll (h : SameBut k s s') :
    (Machine.poll s).1 = (Machine.poll s').1 ∧ SameBut k (Machine.poll s).2 (Machine.poll s').2 := by
  cases hi : s'.input with
  | nil =>
    rw [poll_nil (h.input.trans hi), poll_nil hi]
    exact ⟨congrArg Config.pollBeyond h.draws, h.nextDraw⟩
  | cons answer rest =>
    rw [poll_cons (h.input.trans hi), poll_cons hi]
    exact ⟨rfl, h.setInput rest⟩

theorem keyboardIntercept (h : SameBut k s s') :
    SameBut k (Machine.keyboardIntercept s) (Machine.keyboardIntercept s') := by
  obtain ⟨ha, hu⟩ := h.poll
  have hkbsr : s.config.kbsrAddr = s'.config.kbsrAddr := congrArg Config.kbsrAddr h.config
  rcases hp : Machine.poll s with ⟨answer, u⟩
  rcases hp' : Machine.poll s' with ⟨answer', u'⟩
  rw [hp, hp'] at ha hu
  obtain rfl : answer = answer' := ha
  cases answer with
  | key c =>
    rw [keyboardIntercept_key hp, keyboardIntercept_key hp']
    exact (hu.write hkbsr rfl).write (congrArg Config.kbdrAddr hu.config) rfl
  | noKey =>
    rw [keyboardIntercept_noKey hp, keyboardIntercept_noKey hp']
    exact hu.write hkbsr rfl
  | interrupted =>
    rw [keyboardIntercept_interrupted hp, keyboardIntercept_interrupted hp']
    exact (hu.write hkbsr rfl).setRunning false
  | error =>
    rw [keyboardIntercept_error hp, keyboardIntercept_error hp']
    exact (hu.report .inputError).write hkbsr rfl

/-- Reads through the intercept answer the same word and keep the agreement. -/
theorem memRead (h : SameBut k s s') (a : Word) :
    (Machine.memRead a s).1 = (Machine.memRead a s').1 ∧
      SameBut k (Machine.memRead a s).2 (Machine.memRead a s').2 := by
  have hkbsr : s.config.kbsrAddr = s'.config.kbsrAddr := congrArg Config.kbsrAddr h.config
  have hs : SameBut k (Machine.memRead a s).2 (Machine.memRead a s').2 := by
    by_cases ha : a = s'.config.kbsrAddr
    · rw [memRead_kbsr (ha.trans hkbsr.symm), memRead_kbsr ha]; exact h.keyboardIntercept
    · rw [memRead_plain (hkbsr ▸ ha), memRead_plain ha]; exact h
  exact ⟨congrArg (Memory.read · a) hs.mem, hs⟩

theorem strRead (h : SameBut k s s') (a : Word) :
    (Machine.strRead a s).1 = (Machine.strRead a s').1 ∧
      SameBut k (Machine.strRead a s).2 (Machine.strRead a s').2 := by
  simp only [Machine.strRead, h.config]
  split
  · exact h.memRead a
  · exact ⟨congrArg (Memory.read · a) h.mem, h⟩

theorem pcRelative (h : SameBut k s s') (f : BitVec 9) : Machine.pcRelative f s = Machine.pcRelative f s' :=
  congrArg (· + sext f) h.pc

theorem baseOffset (h : SameBut k s s') (b : RegIndex) (f : BitVec 6) :
    Machine.baseOffset b f s = Machine.baseOffset b f s' :=
  congrArg (· + sext f) (h.reg b)

theorem indirect (h : SameBut k s s') (f : BitVec 9) :
    (Machine.indirect f s).1 = (Machine.indirect f s').1 ∧
      SameBut k (Machine.indirect f s).2 (Machine.indirect f s').2 := by
  simp only [Machine.indirect, h.pcRelative f]
  exact h.memRead _

theorem loadFrom (h : SameBut k s s') (d : RegIndex) {a a' : Word} (ha : a = a') :
    SameBut k (Machine.loadFrom d a s) (Machine.loadFrom d a' s') := by
  subst ha
  obtain ⟨hv, hs⟩ := h.memRead a
  exact hs.setRegCC d hv

/-! #### The iteration -/

theorem bumpAt (h : SameBut k s s') (here : CounterPhase) :
    SameBut k (Machine.bumpAt here s) (Machine.bumpAt here s') := by
  simp only [Machine.bumpAt, bumpCounter, h.config, h.mem]
  split
  · exact h.write rfl rfl
  · exact h

theorem fetch (h : SameBut k s s') :
    (Machine.fetch s).1 = (Machine.fetch s').1 ∧ SameBut k (Machine.fetch s).2 (Machine.fetch s').2 := by
  obtain ⟨hw, hs⟩ := h.memRead s.pc
  rw [fetch_eq, fetch_eq, ← h.pc]
  exact ⟨hw, (hs.setIr (congrArg some hw)).setPc rfl⟩

theorem endIteration (h : SameBut k s s') : SameBut k (Machine.endIteration s) (Machine.endIteration s') := by
  simp only [Machine.endIteration, h.phase]
  split
  · exact (h.bumpAt .afterExecute).setIr rfl
  · exact h

/-! #### Links and trap routines -/

theorem link (h : SameBut k s s') : SameBut k (Machine.link s) (Machine.link s') := h.setReg 7 h.pc

theorem trapEntry (h : SameBut k s s') : SameBut k (Machine.trapEntry s) (Machine.trapEntry s') := by
  simp only [Machine.trapEntry, h.config]
  split
  · exact h.setReg 7 h.pc
  · exact h

theorem interruptedRead (h : SameBut k s s') : SameBut k (Machine.interruptedRead s) (Machine.interruptedRead s') :=
  have hr := (h.setRunning false).nextDraw.setReg 0 (congrArg Config.draw16 h.draws)
  hr.nextDraw.setCond (congrArg Config.drawCond hr.draws)

theorem inputRoutine (h : SameBut k s s') (echo : Bool) (w : Phase) :
    SameBut k (Machine.inputRoutine echo w s) (Machine.inputRoutine echo w s') := by
  cases hf : firstAnswer s'.input with
  | none =>
    rw [inputRoutine_waits (h.input ▸ hf), inputRoutine_waits hf]
    exact (h.setInput []).setPhase w
  | some found =>
    obtain ⟨answer, rest⟩ := found
    have hi := h.setInput rest
    cases answer with
    | key c =>
      rw [inputRoutine_key (h.input ▸ hf), inputRoutine_key hf]
      cases echo with
      | false => exact (hi.setRegCC 0 rfl).setPhase .loopCheck
      | true => exact ((hi.emit rfl).setRegCC 0 rfl).setPhase .loopCheck
    | noKey => exact absurd rfl (firstAnswer_some hf).1
    | interrupted =>
      rw [inputRoutine_interrupted (h.input ▸ hf), inputRoutine_interrupted hf]
      exact hi.interruptedRead.setPhase .loopCheck
    | error =>
      rw [inputRoutine_error (h.input ▸ hf), inputRoutine_error hf]
      exact (hi.report .inputError).setPhase .loopCheck

theorem stringLoop (h : SameBut k s s') (bytes : Config → Word → List Byte) (resume : Word → Phase) (cells : Nat)
    {a a' : Word} (ha : a = a') :
    SameBut k (Machine.stringLoop bytes resume cells a s) (Machine.stringLoop bytes resume cells a' s') := by
  subst ha
  induction cells generalizing a s s' with
  | zero => exact h.setPhase _
  | succ cells ih =>
    obtain ⟨hc, hs⟩ := h.strRead a
    by_cases hz : (Machine.strRead a s').1 = 0#16
    · rw [stringLoop_stop (hc.trans hz), stringLoop_stop hz]
      exact hs.setPhase _
    · rw [stringLoop_next (hc ▸ hz), stringLoop_next hz]
      exact ih (hs.emit (by rw [h.config, hc]))

/-! #### Handlers and steps -/

/-- No handler reads the field: it leads from states equal but for it to states equal but for it. -/
theorem exec (h : SameBut k s s') (i : Instr) :
    ∃ t t', Machine.exec i s = .next t ∧ Machine.exec i s' = .next t' ∧ SameBut k t t' := by
  cases i with
  | br n z p f =>
    refine ⟨_, _, exec_br s n z p f, exec_br s' n z p f, ?_⟩
    rw [h.cond]
    split
    · exact h.setPc (h.pcRelative f)
    · exact h
  | addReg d a b => exact ⟨_, _, exec_addReg s d a b, exec_addReg s' d a b, h.setRegCC d (by rw [h.reg a, h.reg b])⟩
  | addImm d a f => exact ⟨_, _, exec_addImm s d a f, exec_addImm s' d a f, h.setRegCC d (by rw [h.reg a])⟩
  | ld d f => exact ⟨_, _, exec_ld s d f, exec_ld s' d f, h.loadFrom d (h.pcRelative f)⟩
  | st r f => exact ⟨_, _, exec_st s r f, exec_st s' r f, h.write (h.pcRelative f) (h.reg r)⟩
  | jsr f => exact ⟨_, _, exec_jsr s f, exec_jsr s' f, h.link.setPc (by rw [h.pc])⟩
  | jsrr b => exact ⟨_, _, exec_jsrr s b, exec_jsrr s' b, h.link.setPc (by rw [h.config, h.link.reg b, h.reg b])⟩
  | andReg d a b => exact ⟨_, _, exec_andReg s d a b, exec_andReg s' d a b, h.setReg d (by rw [h.reg a, h.reg b])⟩
  | andImm d a f => exact ⟨_, _, exec_andImm s d a f, exec_andImm s' d a f, h.setReg d (by rw [h.reg a])⟩
  | ldr d b f => exact ⟨_, _, exec_ldr s d b f, exec_ldr s' d b f, h.loadFrom d (h.baseOffset b f)⟩
  | str r b f => exact ⟨_, _, exec_str s r b f, exec_str s' r b f, h.write (h.baseOffset b f) (h.reg r)⟩
  | rti => exact ⟨_, _, exec_rti s, exec_rti s', h.report _⟩
  | not d a => exact ⟨_, _, exec_not s d a, exec_not s' d a, h.setRegCC d (by rw [h.reg a])⟩
  | ldi d f =>
    obtain ⟨ha, hs⟩ := h.indirect f
    exact ⟨_, _, exec_ldi s d f, exec_ldi s' d f, hs.loadFrom d ha⟩
  | sti r f =>
    obtain ⟨ha, hs⟩ := h.indirect f
    exact ⟨_, _, exec_sti s r f, exec_sti s' r f, hs.write ha (h.reg r)⟩
  | jmp b => exact ⟨_, _, exec_jmp s b, exec_jmp s' b, h.setPc (h.reg b)⟩
  | res => exact ⟨_, _, exec_res s, exec_res s', h.report _⟩
  | lea d f => exact ⟨_, _, exec_lea s d f, exec_lea s' d f, h.setRegCC d (h.pcRelative f)⟩
  | trap code => exact ⟨_, _, exec_trap s code, exec_trap s' code, h.trapEntry.report _⟩
  | getc => exact ⟨_, _, exec_getc s, exec_getc s', h.trapEntry.inputRoutine _ _⟩
  | out => exact ⟨_, _, exec_out s, exec_out s', h.trapEntry.emit (by rw [h.reg 0])⟩
  | puts => exact ⟨_, _, exec_puts s, exec_puts s', h.trapEntry.stringLoop _ _ _ (h.reg 0)⟩
  | inp =>
    exact ⟨_, _, exec_inp s, exec_inp s', (h.trapEntry.emit (congrArg Config.inPrompt h.config)).inputRoutine _ _⟩
  | putsp => exact ⟨_, _, exec_putsp s, exec_putsp s', h.trapEntry.stringLoop _ _ _ (h.reg 0)⟩
  | halt =>
    exact ⟨_, _, exec_halt s, exec_halt s',
      (h.trapEntry.emit (congrArg Config.haltOutput h.config)).setRunning false⟩

theorem iterate (h : SameBut k s s') :
    ∃ t t', Machine.iterate s = .next t ∧ Machine.iterate s' = .next t' ∧ SameBut k t t' := by
  obtain ⟨hw, hs⟩ := (h.bumpAt .beforeFetch).fetch
  obtain ⟨t, t', ht, ht', hx⟩ := hs.exec (decode (Machine.fetch (Machine.bumpAt .beforeFetch s)).1)
  exact ⟨_, _, iterate_next ht, iterate_next (hw ▸ ht'), hx.endIteration⟩

/-- Only the loop check reads RUNNING, and no step reads OUT or DIAG: from states that agree on RUNNING too, a step
leads to states that differ in the field at most. -/
theorem step (h : SameBut k s s') (hr : s.running = s'.running) :
    ∃ t t', Machine.step s = .next t ∧ Machine.step s' = .next t' ∧ SameBut k t t' := by
  cases hp' : s'.phase with
  | beforeRun =>
    exact ⟨_, _, step_beforeRun (h.phase.trans hp'), step_beforeRun hp', (h.setRunning true).setPhase .loopCheck⟩
  | loopCheck =>
    have hp := h.phase.trans hp'
    cases hr' : s'.running with
    | false => exact ⟨_, _, step_returns hp (hr.trans hr'), step_returns hp' hr', h.setPhase .ended⟩
    | true =>
      rw [step_iterate hp (hr.trans hr'), step_iterate hp' hr']
      exact h.iterate
  | waitGetc =>
    exact ⟨_, _, step_waitGetc (h.phase.trans hp'), step_waitGetc hp', (h.inputRoutine _ _).endIteration⟩
  | waitIn =>
    exact ⟨_, _, step_waitIn (h.phase.trans hp'), step_waitIn hp', (h.inputRoutine _ _).endIteration⟩
  | inPuts a =>
    exact ⟨_, _, step_inPuts (h.phase.trans hp'), step_inPuts hp', (h.stringLoop _ _ _ rfl).endIteration⟩
  | inPutsp a =>
    exact ⟨_, _, step_inPutsp (h.phase.trans hp'), step_inPutsp hp', (h.stringLoop _ _ _ rfl).endIteration⟩
  | ended => exact ⟨_, _, step_ended (h.phase.trans hp'), step_ended hp', h⟩

end SameBut

/-- `run()`'s entry changes RUNNING and the phase alone. -/
theorem runEntry_undone {s : State} (hp : s.phase = .beforeRun) :
    ((runEntry s).setRunning s.running).setPhase .beforeRun = s :=
  State.eq_of_fields (fun _ => rfl) rfl rfl rfl rfl rfl rfl rfl hp.symm rfl rfl rfl

/-- Settles O45: the loop check is `step` by phase, and RUNNING is one of the fields no handler reads. -/
theorem runLoopTestsRunningBeforeEachIteration : Obligations.RunLoopTestsRunningBeforeEachIteration := by
  refine ⟨fun s hp => ⟨_, step_beforeRun hp, rfl, rfl, runEntry_undone hp⟩, fun s hl => step_iterate hl.1 hl.2,
    fun s => step_returns, fun i s b t t' ht ht' => ?_⟩
  obtain ⟨u, u', hu, hu', h⟩ := (sameBut_setRunning s b).exec i
  obtain rfl := next_unique hu ht
  obtain rfl := next_unique hu' ht'
  exact sameBut_running_iff.mp h

end Sys2Proof.Machine

namespace Sys2Proof.Machine

/-! ### What every handler keeps: the parameters and the canonical form of memory -/

/-- A blocking request consumes answers and leaves memory and the parameters alone. -/
theorem inputRoutine_mem_config (echo : Bool) (w : Phase) (s : State) :
    (inputRoutine echo w s).mem = s.mem ∧ (inputRoutine echo w s).config = s.config := by
  cases hf : firstAnswer s.input with
  | none => rw [inputRoutine_waits hf]; exact ⟨rfl, rfl⟩
  | some found =>
    obtain ⟨answer, rest⟩ := found
    cases answer with
    | key c => rw [inputRoutine_key hf]; cases echo <;> exact ⟨rfl, rfl⟩
    | noKey => exact absurd rfl (firstAnswer_some hf).1
    | interrupted => rw [inputRoutine_interrupted hf]; exact ⟨rfl, rfl⟩
    | error => rw [inputRoutine_error hf]; exact ⟨rfl, rfl⟩

/-- Memory is canonical and the parameters are `c`. -/
structure CanonicalUnder (c : Config) (s : State) : Prop where
  canonical : s.mem.wf = true
  config : s.config = c

namespace CanonicalUnder

variable {c : Config} {s : State}

theorem of_same {t : State} (h : CanonicalUnder c s) (hm : t.mem = s.mem) (hc : t.config = s.config) :
    CanonicalUnder c t := ⟨hm ▸ h.canonical, hc.trans h.config⟩

theorem write (h : CanonicalUnder c s) (a v : Word) : CanonicalUnder c (s.write a v) :=
  ⟨Memory.wf_write h.canonical a v, h.config⟩

theorem emit (h : CanonicalUnder c s) (b : List Byte) : CanonicalUnder c (s.emit b) := h.of_same rfl rfl

theorem memRead (h : CanonicalUnder c s) (a : Word) : CanonicalUnder c (Machine.memRead a s).2 :=
  ⟨memRead_wf h.canonical, (memRead_config s a).trans h.config⟩

theorem loadFrom (h : CanonicalUnder c s) (d : RegIndex) (a : Word) : CanonicalUnder c (Machine.loadFrom d a s) :=
  (h.memRead a).of_same rfl rfl

theorem fetch (h : CanonicalUnder c s) : CanonicalUnder c (Machine.fetch s).2 := (h.memRead s.pc).of_same rfl rfl

theorem trapEntry (h : CanonicalUnder c s) : CanonicalUnder c (Machine.trapEntry s) :=
  h.of_same (trapEntry_mem s) (trapEntry_config s)

theorem inputRoutine (h : CanonicalUnder c s) (echo : Bool) (w : Phase) :
    CanonicalUnder c (Machine.inputRoutine echo w s) :=
  h.of_same (inputRoutine_mem_config echo w s).1 (inputRoutine_mem_config echo w s).2

theorem stringLoop (h : CanonicalUnder c s) (bytes : Config → Word → List Byte) (resume : Word → Phase)
    (cells : Nat) (a : Word) : CanonicalUnder c (Machine.stringLoop bytes resume cells a s) :=
  ⟨stringLoop_wf _ _ _ _ _ h.canonical, (stringLoop_config bytes resume cells a s).trans h.config⟩

/-- Every handler keeps memory canonical and the parameters as they are. -/
theorem exec (h : CanonicalUnder c s) (i : Instr) : ∃ t, Machine.exec i s = .next t ∧ CanonicalUnder c t := by
  cases i with
  | br n z p f =>
    refine ⟨_, exec_br s n z p f, ?_⟩
    split
    · exact h.of_same rfl rfl
    · exact h
  | addReg d a b => exact ⟨_, exec_addReg s d a b, h.of_same rfl rfl⟩
  | addImm d a f => exact ⟨_, exec_addImm s d a f, h.of_same rfl rfl⟩
  | ld d f => exact ⟨_, exec_ld s d f, h.loadFrom d _⟩
  | st r f => exact ⟨_, exec_st s r f, h.write _ _⟩
  | jsr f => exact ⟨_, exec_jsr s f, h.of_same rfl rfl⟩
  | jsrr b => exact ⟨_, exec_jsrr s b, h.of_same rfl rfl⟩
  | andReg d a b => exact ⟨_, exec_andReg s d a b, h.of_same rfl rfl⟩
  | andImm d a f => exact ⟨_, exec_andImm s d a f, h.of_same rfl rfl⟩
  | ldr d b f => exact ⟨_, exec_ldr s d b f, h.loadFrom d _⟩
  | str r b f => exact ⟨_, exec_str s r b f, h.write _ _⟩
  | rti => exact ⟨_, exec_rti s, h.of_same rfl rfl⟩
  | not d a => exact ⟨_, exec_not s d a, h.of_same rfl rfl⟩
  | ldi d f => exact ⟨_, exec_ldi s d f, (h.memRead _).loadFrom d _⟩
  | sti r f => exact ⟨_, exec_sti s r f, (h.memRead _).write _ _⟩
  | jmp b => exact ⟨_, exec_jmp s b, h.of_same rfl rfl⟩
  | res => exact ⟨_, exec_res s, h.of_same rfl rfl⟩
  | lea d f => exact ⟨_, exec_lea s d f, h.of_same rfl rfl⟩
  | trap code => exact ⟨_, exec_trap s code, h.trapEntry.of_same rfl rfl⟩
  | getc => exact ⟨_, exec_getc s, h.trapEntry.inputRoutine _ _⟩
  | out => exact ⟨_, exec_out s, h.trapEntry.emit _⟩
  | puts => exact ⟨_, exec_puts s, h.trapEntry.stringLoop _ _ _ _⟩
  | inp => exact ⟨_, exec_inp s, (h.trapEntry.emit _).inputRoutine _ _⟩
  | putsp => exact ⟨_, exec_putsp s, h.trapEntry.stringLoop _ _ _ _⟩
  | halt => exact ⟨_, exec_halt s, h.trapEntry.of_same rfl rfl⟩

end CanonicalUnder

/-- The handler of the fetched word keeps memory canonical and the parameters as they were before the fetch. -/
theorem canonicalUnder_of_exec_fetch {s u : State} (hw : s.mem.wf = true) {i : Instr}
    (hx : exec i (fetch s).2 = .next u) : CanonicalUnder s.config u := by
  obtain ⟨t, ht, h⟩ := (CanonicalUnder.mk hw rfl).fetch.exec i
  rwa [next_unique hx ht]

/-- With no bump before the fetch, a step at the loop check is the handler of the fetched word, whatever was fetched,
and the iteration's end. -/
theorem step_afterExecute {s u : State} (hl : AtLoop s) (hp : s.config.cycleCounterPhase = .afterExecute)
    (hx : exec (decode (fetch s).1) (fetch s).2 = .next u) : step s = .next (endIteration u) := by
  rw [step_iterate hl.1 hl.2]
  exact iterate_next (by rwa [bumpAt_off (.inr (by simp [hp]))])

/-- Settles O56: a report touches one field, the iteration around it is an ordinary one with its bump, and DIAG is one
of the fields no step reads. -/
theorem diagnosticsChangeNothingElse : Obligations.DiagnosticsChangeNothingElse := by
  refine ⟨fun s d => rfl, fun s u hl hw hp he hx hu _ => ?_, fun s d t t' ht ht' => ?_⟩
  · obtain ⟨hcan, hcfg⟩ := canonicalUnder_of_exec_fetch hw hx
    refine ⟨_, step_afterExecute hl hp hx, endIteration_diag u, endIteration_reg u, endIteration_cond u,
      endIteration_pc u, endIteration_running u, endIteration_out u, endIteration_input u,
      (endIteration_phase u).trans hu, ?_, ?_⟩
    · rw [endIteration_done hu, ← hcfg]
      exact bumpAt_read_counter hcan (hcfg ▸ he) (hcfg ▸ hp)
    · intro a ha
      rw [endIteration_done hu]
      exact bumpAt_read_other hcan (by simpa [hcfg] using ha)
  · obtain ⟨u, u', hu, hu', h⟩ := (sameBut_withDiag s d).step rfl
    obtain rfl := next_unique hu ht
    obtain rfl := next_unique hu' ht'
    exact h

end Sys2Proof.Machine

namespace Sys2Proof.Machine

/-! ### The flag unit and who invokes it (41_operate.md R130, R131)

`condOf` by its three cases; the one shape of the handlers that set the flags, `R[DR] <- v; SetCC(R[DR])`; and the
handlers that leave COND alone. -/

theorem condOf_zero : condOf 0x0000#16 = .z := rfl

theorem condOf_negative {v : Word} (h0 : v ≠ 0x0000#16) (h15 : v.getLsbD 15 = true) : condOf v = .n := by
  rw [condOf, if_neg h0, if_pos h15]

theorem condOf_positive {v : Word} (h0 : v ≠ 0x0000#16) (h15 : v.getLsbD 15 = false) : condOf v = .p := by
  rw [condOf, if_neg h0, h15, if_neg Bool.false_ne_true]

/-- Bit 15 of a word is set exactly when its value is at least 32768. -/
theorem getLsbD_fifteen (v : Word) : v.getLsbD 15 = decide (32768 ≤ v.toNat) :=
  (BitVec.msb_eq_getLsbD_last v).symm.trans (BitVec.msb_eq_decide v)

/-- The cases of the flag unit, by bits, are the document's, by value. -/
theorem signOf_condOf (v : Word) : SignOf v (condOf v) := by
  have nonzero (h : v.toNat ≠ 0) : v ≠ 0x0000#16 := fun hv => h (by simp [hv])
  refine ⟨fun h => ?_, fun h => ?_, fun ⟨h0, h⟩ => ?_⟩
  · rw [BitVec.eq_of_toNat_eq (y := 0x0000#16) h, condOf_zero]
  · exact condOf_negative (nonzero (by omega)) ((getLsbD_fifteen v).trans (decide_eq_true h))
  · exact condOf_positive (nonzero h0) ((getLsbD_fifteen v).trans (decide_eq_false (by omega)))

/-- Once a register is written with its flags, COND is the sign of what that register holds. -/
theorem signOf_setRegCC (s : State) (d : RegIndex) (v : Word) :
    SignOf ((s.setRegCC d v).reg d) (s.setRegCC d v).cond := by
  simpa using signOf_condOf v

/-- Zero extension of a byte keeps its value. -/
theorem toNat_zext_byte (k : Byte) : (zext k).toNat = k.toNat := BitVec.toNat_setWidth_of_le (by decide)

/-- A key that answers GETC or IN is stored in R0 with its flags (44_trap.md R211, R214). -/
theorem inputRoutine_key_sign {echo : Bool} {w : Phase} {s : State} {k : Byte} {rest : List InputAnswer}
    (h : firstAnswer s.input = some (.key k, rest)) :
    ((inputRoutine echo w s).reg 0).toNat = k.toNat ∧
      SignOf ((inputRoutine echo w s).reg 0) (inputRoutine echo w s).cond := by
  rw [inputRoutine_key h]
  exact ⟨by simp [storeKey, toNat_zext_byte], signOf_setRegCC _ 0 (zext k)⟩

/-- The instructions whose handler may write COND: R131's six, and GETC and IN. -/
def MayWriteFlags (i : Instr) : Prop :=
  (∃ d a b, i = .addReg d a b) ∨ (∃ d a f, i = .addImm d a f) ∨ (∃ d a, i = .not d a) ∨ (∃ d f, i = .ld d f) ∨
    (∃ d f, i = .ldi d f) ∨ (∃ d b f, i = .ldr d b f) ∨ (∃ d f, i = .lea d f) ∨ i = .getc ∨ i = .inp

/-- Every other handler, AND's among them, leaves COND as it was. -/
theorem exec_keeps_cond {i : Instr} (h : ¬ MayWriteFlags i) (s : State) :
    ∃ t, exec i s = .next t ∧ t.cond = s.cond := by
  cases i with
  | addReg | addImm | not | ld | ldi | ldr | lea | getc | inp => exact absurd (by simp [MayWriteFlags]) h
  | br n z p f => exact ⟨_, exec_br s n z p f, by split <;> rfl⟩
  | andReg d a b => exact ⟨_, exec_andReg s d a b, rfl⟩
  | andImm d a f => exact ⟨_, exec_andImm s d a f, rfl⟩
  | jmp b => exact ⟨_, exec_jmp s b, rfl⟩
  | jsr f => exact ⟨_, exec_jsr s f, rfl⟩
  | jsrr b => exact ⟨_, exec_jsrr s b, rfl⟩
  | st r f => exact ⟨_, exec_st s r f, rfl⟩
  | str r b f => exact ⟨_, exec_str s r b f, rfl⟩
  | sti r f => exact ⟨_, exec_sti s r f, memRead_cond s _⟩
  | rti => exact ⟨_, exec_rti s, rfl⟩
  | res => exact ⟨_, exec_res s, rfl⟩
  | trap code => exact ⟨_, exec_trap s code, trapEntry_cond s⟩
  | out => exact ⟨_, exec_out s, trapEntry_cond s⟩
  | puts => exact ⟨_, exec_puts s, (stringLoop_cond ..).trans (trapEntry_cond s)⟩
  | putsp => exact ⟨_, exec_putsp s, (stringLoop_cond ..).trans (trapEntry_cond s)⟩
  | halt => exact ⟨_, exec_halt s, trapEntry_cond s⟩

/-- Settles O6: the seven handlers that set the flags end in one write of DR with its flags, a key answering GETC or IN
is stored the same way, and every other handler keeps COND. -/
theorem flagsAreSetByExactlyTheListedInstructions : Obligations.FlagsAreSetByExactlyTheListedInstructions := by
  refine ⟨fun v s => ⟨fun h => h ▸ condOf_zero, condOf_negative, condOf_positive⟩, fun i dr s t ht hi => ?_,
    fun i k rest s t ht hi hin => ?_, fun i s t ht hi => ?_⟩
  · obtain ⟨u, v, hx⟩ : ∃ u v, exec i s = .next (State.setRegCC u dr v) := by
      rcases hi with ⟨a, b, rfl⟩ | ⟨a, f, rfl⟩ | ⟨a, rfl⟩ | ⟨f, rfl⟩ | ⟨f, rfl⟩ | ⟨b, f, rfl⟩ | ⟨f, rfl⟩
      · exact ⟨_, _, exec_addReg s dr a b⟩
      · exact ⟨_, _, exec_addImm s dr a f⟩
      · exact ⟨_, _, exec_not s dr a⟩
      · exact ⟨_, _, exec_ld s dr f⟩
      · exact ⟨_, _, exec_ldi s dr f⟩
      · exact ⟨_, _, exec_ldr s dr b f⟩
      · exact ⟨_, _, exec_lea s dr f⟩
    obtain rfl := next_unique hx ht
    exact signOf_setRegCC u dr v
  · have hfirst : firstAnswer s.input = some (.key k, rest) := by rw [hin]; rfl
    rcases hi with rfl | rfl
    · obtain rfl := next_unique (exec_getc s) ht
      exact inputRoutine_key_sign (by simpa using hfirst)
    · obtain rfl := next_unique (exec_inp s) ht
      exact inputRoutine_key_sign (by simpa using hfirst)
  · obtain ⟨u, hu, hc⟩ := exec_keeps_cond hi s
    exact next_unique hu ht ▸ hc

end Sys2Proof.Machine

namespace Sys2Proof

/-! ### Words as numbers (30_encoding.md R80 to R83)

The decoder's slices are quotients and remainders of the word's number, and the encoder's word is the number that its
fields make up. -/

theorem opcode_eq_ofNat (ir : Word) : opcode ir = BitVec.ofNat 4 (ir.toNat / 4096) := by
  apply BitVec.eq_of_toNat_eq
  simp [opcode, BitVec.extractLsb'_toNat, Nat.shiftRight_eq_div_pow]

theorem regField_eq_ofNat (ir : Word) (lo : Nat) : regField ir lo = Fin.ofNat 8 (ir.toNat / 2 ^ lo) := by
  simp [regField, Nat.shiftRight_eq_div_pow]

theorem lowField_eq_ofNat (ir : Word) (n : Nat) : ir.extractLsb' 0 n = BitVec.ofNat n ir.toNat := by
  simp [BitVec.extractLsb']

theorem getLsbD_eq_decide (ir : Word) (i : Nat) : ir.getLsbD i = decide (ir.toNat / 2 ^ i % 2 = 1) := by
  simp [BitVec.getLsbD, Nat.testBit_eq_decide_div_mod_eq]

/-- The six service codes are 0x20 to 0x25 (30_encoding.md R88). -/
theorem serviceRow_eq_none_iff (code : BitVec 8) :
    serviceRow code = none ↔ code.toNat < 0x20 ∨ 0x25 < code.toNat := by
  revert code; decide

theorem decodeTrap_of_generic {code : BitVec 8} (h : code.toNat < 0x20 ∨ 0x25 < code.toNat) :
    decodeTrap code = .trap code := by
  rw [decodeTrap, (serviceRow_eq_none_iff code).2 h]; rfl

/-- A code given by its number selects that number's row. -/
theorem ofNat_eq_of_mod {n c : Nat} (h : n % 256 = c) : BitVec.ofNat 8 n = BitVec.ofNat 8 c := by
  apply BitVec.eq_of_toNat_eq
  simp [← h]

/-- Settles O2: at each opcode the decoder's match picks one row, and each slice it reads is a quotient
and remainder. -/
theorem decoderReadsEveryFieldFromItsBits : Obligations.DecoderReadsEveryFieldFromItsBits := by
  intro ir w op r9 r6 r0 o9
  have hop : opcode ir = BitVec.ofNat 4 op := opcode_eq_ofNat ir
  have h9 : regField ir 9 = r9 := regField_eq_ofNat ir 9
  have h6 : regField ir 6 = r6 := regField_eq_ofNat ir 6
  have h0 : regField ir 0 = r0 := by rw [regField_eq_ofNat, Nat.pow_zero, Nat.div_one]
  have hlow (n : Nat) : ir.extractLsb' 0 n = BitVec.ofNat n w := lowField_eq_ofNat ir n
  have hbit (i : Nat) : ir.getLsbD i = decide (w / 2 ^ i % 2 = 1) := getLsbD_eq_decide ir i
  simp only [decode, hop, h9, h6, h0, hlow, hbit, Nat.reducePow]
  refine ⟨fun h => ?_, fun h b => ?_, fun h b => ?_, fun h => ?_, fun h => ?_, fun h b => ?_, fun h b => ?_,
    fun h b => ?_, fun h b => ?_, fun h => ?_, fun h => ?_, fun h => ?_, fun h => ?_, fun h => ?_, fun h => ?_,
    fun h => ?_, fun h => ?_, fun h => ?_, fun h c => ?_, fun h c => ?_, fun h c => ?_, fun h c => ?_, fun h c => ?_,
    fun h c => ?_, fun h c => ?_⟩
  all_goals rw [h]
  case refine_3 | refine_6 | refine_9 => exact if_pos (decide_eq_true b)
  case refine_2 | refine_7 | refine_8 => exact if_neg (by simp [b])
  case refine_25 => exact decodeTrap_of_generic (by simpa using c)
  case refine_19 | refine_20 | refine_21 | refine_22 | refine_23 | refine_24 => rw [ofNat_eq_of_mod c]; rfl
  all_goals rfl

theorem toNat_append_eq {n m : Nat} (x : BitVec n) (y : BitVec m) : (x ++ y).toNat = x.toNat * 2 ^ m + y.toNat := by
  rw [BitVec.toNat_append, ← Nat.shiftLeft_add_eq_or_of_lt y.isLt, Nat.shiftLeft_eq]

@[simp] theorem toNat_regBits (r : RegIndex) : (regBits r).toNat = r.val := rfl

/-- The number that an instruction's opcode and fields make up. -/
def numberOf : Instr → Nat
  | .br n z p f => 2048 * n.toNat + 1024 * z.toNat + 512 * p.toNat + f.toNat
  | .addReg d a b => 0x1000 + 512 * d + 64 * a + b
  | .addImm d a f => 0x1000 + 512 * d + 64 * a + 32 + f.toNat
  | .ld d f => 0x2000 + 512 * d + f.toNat
  | .st r f => 0x3000 + 512 * r + f.toNat
  | .jsr f => 0x4800 + f.toNat
  | .jsrr b => 0x4000 + 64 * b
  | .andReg d a b => 0x5000 + 512 * d + 64 * a + b
  | .andImm d a f => 0x5000 + 512 * d + 64 * a + 32 + f.toNat
  | .ldr d b f => 0x6000 + 512 * d + 64 * b + f.toNat
  | .str r b f => 0x7000 + 512 * r + 64 * b + f.toNat
  | .rti => 0x8000
  | .not d a => 0x9000 + 512 * d + 64 * a + 63
  | .ldi d f => 0xA000 + 512 * d + f.toNat
  | .sti r f => 0xB000 + 512 * r + f.toNat
  | .jmp b => 0xC000 + 64 * b
  | .res => 0xD000
  | .lea d f => 0xE000 + 512 * d + f.toNat
  | .trap code => 0xF000 + code.toNat
  | .getc => 0xF020
  | .out => 0xF021
  | .puts => 0xF022
  | .inp => 0xF023
  | .putsp => 0xF024
  | .halt => 0xF025

theorem toNat_encode (i : Instr) : (encode i).toNat = numberOf i := by
  cases i with
  | rti | res | getc | out | puts | inp | putsp | halt => rfl
  | _ =>
    refine (toNat_append_eq ..).trans ?_
    simp only [toNat_append_eq, toNat_regBits, BitVec.toNat_ofBool, BitVec.toNat_ofNat, numberOf]
    omega

theorem reg_of_number {n : Nat} {r : RegIndex} (h : n % 8 = r) : Fin.ofNat 8 n = r := Fin.ext h

theorem field_of_number {k n : Nat} {f : BitVec k} (h : n % 2 ^ k = f.toNat) : BitVec.ofNat k n = f :=
  BitVec.eq_of_toNat_eq h

theorem bit_of_number {n : Nat} {b : Bool} (h : n % 2 = b.toNat) : decide (n % 2 = 1) = b := by
  rw [h]; cases b <;> rfl

/-- Settles O3: each instruction's number has its row's opcode and fixed bits, and each operand in the bits of its
field, so the row that O2 gives the word answers the instruction. -/
theorem decodeOfEncodeIsTheInstruction : Obligations.DecodeOfEncodeIsTheInstruction := by
  intro i hwf
  have hn := toNat_encode i
  obtain ⟨hbr, haddReg, haddImm, hld, hst, hjsr, hjsrr, handReg, handImm, hldr, hstr, hrti, hnot, hldi, hsti, hjmp,
    hres, hlea, hgetc, hout, hputs, hinp, hputsp, hhalt, htrap⟩ := decoderReadsEveryFieldFromItsBits (encode i)
  cases i <;> simp only [numberOf] at hn
  case br n z p f =>
    have hbits := And.intro n.toNat_lt (And.intro z.toNat_lt p.toNat_lt)
    rw [hbr (by omega), bit_of_number (b := n) (by omega), bit_of_number (b := z) (by omega),
      bit_of_number (b := p) (by omega), field_of_number (f := f) (by omega)]
  case addReg d a b =>
    rw [haddReg (by omega) (by omega), reg_of_number (r := d) (by omega), reg_of_number (r := a) (by omega),
      reg_of_number (r := b) (by omega)]
  case addImm d a f =>
    rw [haddImm (by omega) (by omega), reg_of_number (r := d) (by omega), reg_of_number (r := a) (by omega),
      field_of_number (f := f) (by omega)]
  case ld d f => rw [hld (by omega), reg_of_number (r := d) (by omega), field_of_number (f := f) (by omega)]
  case st r f => rw [hst (by omega), reg_of_number (r := r) (by omega), field_of_number (f := f) (by omega)]
  case jsr f => rw [hjsr (by omega) (by omega), field_of_number (f := f) (by omega)]
  case jsrr b => rw [hjsrr (by omega) (by omega), reg_of_number (r := b) (by omega)]
  case andReg d a b =>
    rw [handReg (by omega) (by omega), reg_of_number (r := d) (by omega), reg_of_number (r := a) (by omega),
      reg_of_number (r := b) (by omega)]
  case andImm d a f =>
    rw [handImm (by omega) (by omega), reg_of_number (r := d) (by omega), reg_of_number (r := a) (by omega),
      field_of_number (f := f) (by omega)]
  case ldr d b f =>
    rw [hldr (by omega), reg_of_number (r := d) (by omega), reg_of_number (r := b) (by omega),
      field_of_number (f := f) (by omega)]
  case str r b f =>
    rw [hstr (by omega), reg_of_number (r := r) (by omega), reg_of_number (r := b) (by omega),
      field_of_number (f := f) (by omega)]
  case rti => exact hrti (by omega)
  case not d a => rw [hnot (by omega), reg_of_number (r := d) (by omega), reg_of_number (r := a) (by omega)]
  case ldi d f => rw [hldi (by omega), reg_of_number (r := d) (by omega), field_of_number (f := f) (by omega)]
  case sti r f => rw [hsti (by omega), reg_of_number (r := r) (by omega), field_of_number (f := f) (by omega)]
  case jmp b => rw [hjmp (by omega), reg_of_number (r := b) (by omega)]
  case res => exact hres (by omega)
  case lea d f => rw [hlea (by omega), reg_of_number (r := d) (by omega), field_of_number (f := f) (by omega)]
  case trap code =>
    have hcode := (serviceRow_eq_none_iff code).1 (by simpa [Instr.wellFormed] using hwf)
    rw [htrap (by omega) (by omega), field_of_number (f := code) (by omega)]
  case getc => exact hgetc (by omega) (by omega)
  case out => exact hout (by omega) (by omega)
  case puts => exact hputs (by omega) (by omega)
  case inp => exact hinp (by omega) (by omega)
  case putsp => exact hputsp (by omega) (by omega)
  case halt => exact hhalt (by omega) (by omega)

/-! ### Masked words (30_encoding.md R83, R86)

A slice that the mask keeps whole is the same in two words that agree under the mask. -/

theorem slice_eq_of_masked {w w' m : Word} (h : w &&& m = w' &&& m) {lo len : Nat}
    (hm : m.extractLsb' lo len = BitVec.allOnes len) : w.extractLsb' lo len = w'.extractLsb' lo len := by
  have hs := congrArg (BitVec.extractLsb' lo len) h
  rwa [BitVec.extractLsb'_and, BitVec.extractLsb'_and, hm, BitVec.and_allOnes, BitVec.and_allOnes] at hs

theorem regField_eq_of_masked {w w' m : Word} (h : w &&& m = w' &&& m) {lo : Nat}
    (hm : m.extractLsb' lo 3 = BitVec.allOnes 3) : regField w lo = regField w' lo :=
  congrArg BitVec.toFin (slice_eq_of_masked h hm)

/-- A word whose masked bits are a row's match has the row's opcode. -/
theorem opcode_eq_of_masked {w m v : Word} (h : w &&& m = v) (hm : m.extractLsb' 12 4 = BitVec.allOnes 4) :
    opcode w = opcode v := by
  rw [← h, opcode, opcode, BitVec.extractLsb'_and, hm, BitVec.and_allOnes]

/-- A bit that the mask keeps is the row's. -/
theorem getLsbD_of_masked {w m v : Word} (h : w &&& m = v) {i : Nat} (hm : m.getLsbD i = true) :
    w.getLsbD i = v.getLsbD i := by
  rw [← h, BitVec.getLsbD_and, hm, Bool.and_true]

/-- Words that agree under a mask are in the same row, when the mask keeps the row's bits. -/
theorem row_of_masked {w w' m m' v : Word} (h : w &&& m = w' &&& m) (hm : m &&& m' = m') (hr : w &&& m' = v) :
    w' &&& m' = v := by
  rw [← hr, ← hm, ← BitVec.and_assoc, ← BitVec.and_assoc, h]

/-- Settles O4: two words that agree under the mask are in the same row, and every field the row reads is kept by the
mask, so the decoder reads the same fields. -/
theorem ignoredBitsDoNotMatter : Obligations.IgnoredBitsDoNotMatter := by
  rintro w w' (⟨h, hr⟩ | ⟨h, hr⟩ | ⟨h, hr⟩ | ⟨h, hr⟩ | ⟨h, hr⟩ | ⟨h, hr⟩)
  case inl =>
    have h9 := regField_eq_of_masked (lo := 9) h (by decide)
    have h6 := regField_eq_of_masked (lo := 6) h (by decide)
    have h0 := regField_eq_of_masked (lo := 0) h (by decide)
    rcases hr with hr | hr <;>
    · have hr' := row_of_masked h (by decide) hr
      simp only [decode, opcode_eq_of_masked hr (by decide), opcode_eq_of_masked hr' (by decide),
        getLsbD_of_masked (i := 5) hr (by decide), getLsbD_of_masked (i := 5) hr' (by decide), h9, h6, h0]
      rfl
  case inr.inl =>
    simp only [decode, opcode_eq_of_masked hr (by decide),
      opcode_eq_of_masked (row_of_masked h (by decide) hr) (by decide),
      regField_eq_of_masked (lo := 9) h (by decide), regField_eq_of_masked (lo := 6) h (by decide)]
    rfl
  case inr.inr.inl =>
    simp only [decode, opcode_eq_of_masked hr (by decide),
      opcode_eq_of_masked (row_of_masked h (by decide) hr) (by decide), regField_eq_of_masked (lo := 6) h (by decide)]
    rfl
  case inr.inr.inr.inl =>
    have hr' := row_of_masked h (by decide) hr
    simp only [decode, opcode_eq_of_masked hr (by decide), opcode_eq_of_masked hr' (by decide),
      getLsbD_of_masked (i := 11) hr (by decide), getLsbD_of_masked (i := 11) hr' (by decide),
      regField_eq_of_masked (lo := 6) h (by decide)]
    rfl
  case inr.inr.inr.inr.inl =>
    rcases hr with hr | hr <;>
    · simp only [decode, opcode_eq_of_masked hr (by decide),
        opcode_eq_of_masked (row_of_masked h (by decide) hr) (by decide)]
      rfl
  case inr.inr.inr.inr.inr =>
    simp only [decode, opcode_eq_of_masked hr (by decide),
      opcode_eq_of_masked (row_of_masked h (by decide) hr) (by decide),
      slice_eq_of_masked (lo := 0) (len := 8) h (by decide)]
    rfl

/-- Settles O1, by evaluating the decoder on each word. -/
theorem wordsOfTheSpecDecode : Obligations.WordsOfTheSpecDecode := by
  unfold Obligations.WordsOfTheSpecDecode
  decide

end Sys2Proof

namespace Sys2Proof.Machine

/-! ### What one poll does, by its answer (20_memory.md R52, 44_trap.md R225)

`PollAnswer` names the answer, listed or free; the intercept's effects on everything but memory follow from it. -/

/-- Every poll has an answer. -/
theorem exists_pollAnswer (s : State) : ∃ answer rest draws, PollAnswer answer rest draws s := by
  cases h : s.input with
  | nil => exact ⟨_, _, _, .inr ⟨h, rfl, rfl, rfl⟩⟩
  | cons answer rest => exact ⟨_, _, _, .inl ⟨h, rfl⟩⟩

/-- The state after a request: what is left of the source's answers, and the index of the next free value. -/
def State.answered (s : State) (rest : List InputAnswer) (draws : Nat) : State :=
  { s with input := rest, draws := draws }

theorem poll_of_answer {answer : InputAnswer} {rest : List InputAnswer} {draws : Nat} {s : State}
    (h : PollAnswer answer rest draws s) : poll s = (answer, s.answered rest draws) := by
  rcases h with ⟨hi, rfl⟩ | ⟨hi, rfl, rfl, rfl⟩
  · exact poll_cons hi
  · rw [poll_nil hi, State.answered, ← hi]; rfl

/-- RUNNING, DIAG and the source after the intercept. -/
theorem keyboardIntercept_of_answer {answer : InputAnswer} {rest : List InputAnswer} {draws : Nat} {s : State}
    (h : PollAnswer answer rest draws s) :
    (keyboardIntercept s).running = (if answer = .interrupted then false else s.running) ∧
    (keyboardIntercept s).diag = s.diag ++ reportsOf answer ∧
    (keyboardIntercept s).input = rest ∧ (keyboardIntercept s).draws = draws := by
  have hp := poll_of_answer h
  cases answer with
  | key k => rw [keyboardIntercept_key hp]; exact ⟨rfl, (List.append_nil _).symm, rfl, rfl⟩
  | noKey => rw [keyboardIntercept_noKey hp]; exact ⟨rfl, (List.append_nil _).symm, rfl, rfl⟩
  | interrupted => rw [keyboardIntercept_interrupted hp]; exact ⟨rfl, (List.append_nil _).symm, rfl, rfl⟩
  | error => rw [keyboardIntercept_error hp]; exact ⟨rfl, rfl, rfl, rfl⟩

/-! ### The effects of an instruction

Every handler is a sequence of a few kinds of state change. `Does` lists the kinds once, `effectsOf` says which of them
an instruction's handler may use, and `effects_of_exec` that it uses no other; what an instruction leaves alone then
follows from what each kind leaves alone. -/

/-- The kinds of state change that handlers and the run loop are made of. -/
inductive Effect where
  /-- A general register is written. -/
  | regs
  /-- COND is written. -/
  | flags
  /-- PC is written. -/
  | pc
  /-- A cell is written plainly. -/
  | store
  /-- The keyboard-status intercept. -/
  | poll
  /-- A blocking request takes answers of the source, or a free value is drawn. -/
  | ask
  /-- Bytes are emitted. -/
  | emit
  /-- A diagnostic report is made. -/
  | report
  /-- A routine ends, or stays inside its iteration. -/
  | phase
  /-- HALT clears RUNNING. -/
  | halt
  /-- The run loop holds or drops the instruction word, starts, or ends. -/
  | loop

/-- One state change of each kind. An interrupt that answers a blocking request is taken and clears RUNNING at once. -/
inductive Does : Effect → State → State → Prop where
  | setReg (s : State) (i : RegIndex) (v : Word) : Does .regs s (s.setReg i v)
  | setCond (s : State) (c : Cond) : Does .flags s (s.setCond c)
  | setPc (s : State) (a : Word) : Does .pc s (s.setPc a)
  | write (s : State) (a v : Word) : Does .store s (s.write a v)
  | poll (s : State) : Does .poll s (keyboardIntercept s)
  | take (s : State) {taken rest : List InputAnswer} (h : s.input = taken ++ rest) : Does .ask s (s.setInput rest)
  | interrupt (s : State) {taken rest : List InputAnswer} (h : s.input = taken ++ rest) (hi : .interrupted ∈ taken) :
      Does .ask s ((s.setInput rest).setRunning false)
  | draw (s : State) : Does .ask s s.nextDraw
  | emit (s : State) (b : List Byte) : Does .emit s (s.emit b)
  | report (s : State) (k : DiagKind) : Does .report s (s.report k)
  | setPhase (s : State) (p : Phase) (h : p = .loopCheck ∨ p.between = false) : Does .phase s (s.setPhase p)
  | halt (s : State) : Does .halt s (s.setRunning false)
  | setIr (s : State) (w : Option Word) : Does .loop s (s.setIr w)
  | enter (s : State) : Does .loop s (runEntry s)
  | leave (s : State) : Does .loop s (s.setPhase .ended)

/-- A sequence of state changes of the listed kinds. -/
def Effects (l : List Effect) : State → State → Prop := Relation.ReflTransGen fun s t => ∃ e ∈ l, Does e s t

/-- The kinds of state change an instruction's handler may use. -/
def effectsOf : Instr → List Effect
  | .br _ _ _ _ | .jmp _ => [.pc]
  | .addReg _ _ _ | .addImm _ _ _ | .not _ _ | .lea _ _ => [.regs, .flags]
  | .andReg _ _ _ | .andImm _ _ _ => [.regs]
  | .ld _ _ | .ldi _ _ | .ldr _ _ _ => [.poll, .regs, .flags]
  | .st _ _ | .str _ _ _ => [.store]
  | .sti _ _ => [.poll, .store]
  | .jsr _ | .jsrr _ => [.regs, .pc]
  | .rti | .res => [.report]
  | .trap _ => [.regs, .report]
  | .getc => [.regs, .flags, .ask, .report, .phase]
  | .inp => [.regs, .flags, .ask, .emit, .report, .phase]
  | .out => [.regs, .emit]
  | .puts | .putsp => [.regs, .poll, .emit, .phase]
  | .halt => [.regs, .emit, .halt]

namespace Effects

variable {l : List Effect} {s t : State}

/-- A property that each listed kind of change keeps is kept by a sequence of them. -/
theorem keeps {P : State → Prop} (h : Effects l s t) (hP : ∀ e ∈ l, ∀ u v, Does e u v → P u → P v) (hs : P s) :
    P t := by
  induction h with
  | refl => exact hs
  | tail _ hd ih =>
    obtain ⟨e, he, hd⟩ := hd
    exact hP e he _ _ hd ih

/-- A field that none of the listed kinds of change touches is as it was. -/
theorem same {α : Type} {f : State → α} (h : Effects l s t) (hf : ∀ e ∈ l, ∀ u v, Does e u v → f v = f u) :
    f t = f s :=
  h.keeps (P := fun u => f u = f s) (fun e he u v hd hu => (hf e he u v hd).trans hu) rfl

/-! #### Each operation as effects -/

theorem refl (s : State) : Effects l s s := Relation.ReflTransGen.refl

theorem andThen {e : Effect} {u : State} (h : Effects l s t) (hd : Does e t u) (he : e ∈ l := by simp [effectsOf]) :
    Effects l s u :=
  .tail h ⟨e, he, hd⟩

theorem mono {l' : List Effect} (h : Effects l s t) (hl : ∀ e ∈ l, e ∈ l') : Effects l' s t :=
  h.keeps (P := Effects l' s) (fun e he _ _ hd hu => hu.andThen hd (hl e he)) (.refl s)

theorem setRegCC (h : Effects l s t) (i : RegIndex) (v : Word) (hr : .regs ∈ l := by simp [effectsOf])
    (hf : .flags ∈ l := by simp [effectsOf]) : Effects l s (t.setRegCC i v) :=
  (h.andThen (.setReg t i v) hr).andThen (.setCond _ _) hf

theorem memRead (h : Effects l s t) (a : Word) (hp : .poll ∈ l := by simp [effectsOf]) :
    Effects l s (Machine.memRead a t).2 := by
  by_cases ha : a = t.config.kbsrAddr
  · rw [memRead_kbsr ha]; exact h.andThen (.poll t) hp
  · rw [memRead_plain ha]; exact h

theorem strRead (h : Effects l s t) (a : Word) (hp : .poll ∈ l := by simp [effectsOf]) :
    Effects l s (Machine.strRead a t).2 := by
  cases hi : t.config.stringReadsIntercepted with
  | false => rw [strRead_raw hi]; exact h
  | true => simpa [Machine.strRead, hi] using h.memRead a hp

theorem trapEntry (h : Effects l s t) (hr : .regs ∈ l := by simp [effectsOf]) : Effects l s (Machine.trapEntry t) := by
  unfold Machine.trapEntry
  split
  · exact h.andThen (.setReg t 7 t.pc) hr
  · exact h

/-- A blocking request: the answers it takes, and what the answer does. -/
theorem inputRoutine (h : Effects l s t) (echo : Bool) {w : Phase} (hw : w.between = false)
    (hr : .regs ∈ l := by simp [effectsOf]) (hf : .flags ∈ l := by simp [effectsOf])
    (ha : .ask ∈ l := by simp [effectsOf]) (he : echo = true → .emit ∈ l := by simp [effectsOf])
    (hd : .report ∈ l := by simp [effectsOf]) (hp : .phase ∈ l := by simp [effectsOf]) :
    Effects l s (Machine.inputRoutine echo w t) := by
  cases hfirst : firstAnswer t.input with
  | none =>
    rw [inputRoutine_waits hfirst]
    exact (h.andThen (.take t (List.append_nil _).symm) ha).andThen (.setPhase _ w (.inr hw)) hp
  | some found =>
    obtain ⟨answer, rest⟩ := found
    obtain ⟨hne, n, hin⟩ := firstAnswer_some hfirst
    rw [List.append_cons] at hin
    have htaken := h.andThen (.take t hin) ha
    cases answer with
    | noKey => exact absurd rfl hne
    | key k =>
      rw [inputRoutine_key hfirst]
      cases echo with
      | false => exact (htaken.setRegCC 0 (zext k) hr hf).andThen (.setPhase _ _ (.inl rfl)) hp
      | true =>
        exact ((htaken.andThen (.emit _ [k]) (he rfl)).setRegCC 0 (zext k) hr hf).andThen (.setPhase _ _ (.inl rfl)) hp
    | interrupted =>
      rw [inputRoutine_interrupted hfirst]
      have hstopped := h.andThen (.interrupt t hin (by simp)) ha
      have hreg := (hstopped.andThen (.draw _) ha).andThen (.setReg _ 0 (Config.draw16 t.draws)) hr
      exact ((hreg.andThen (.draw _) ha).andThen (.setCond _ _) hf).andThen (.setPhase _ _ (.inl rfl)) hp
    | error =>
      rw [inputRoutine_error hfirst]
      exact (htaken.andThen (.report _ .inputError) hd).andThen (.setPhase _ _ (.inl rfl)) hp

/-- The string loop: reads, emissions, and its end or its phase. -/
theorem stringLoop (h : Effects l s t) (bytes : Config → Word → List Byte) {resume : Word → Phase}
    (hres : ∀ a, (resume a).between = false) (cells : Nat) (a : Word) (hp : .poll ∈ l := by simp [effectsOf])
    (he : .emit ∈ l := by simp [effectsOf]) (hph : .phase ∈ l := by simp [effectsOf]) :
    Effects l s (Machine.stringLoop bytes resume cells a t) := by
  induction cells generalizing a t with
  | zero => exact h.andThen (.setPhase t _ (.inr (hres a))) hph
  | succ cells ih =>
    by_cases hz : (Machine.strRead a t).1 = 0#16
    · rw [stringLoop_stop hz]; exact (h.strRead a hp).andThen (.setPhase _ _ (.inl rfl)) hph
    · rw [stringLoop_next hz]; exact ih ((h.strRead a hp).andThen (.emit _ _) he) _

end Effects

/-- Every handler is made of the changes that `effectsOf` lists for its instruction. -/
theorem exec_effects (i : Instr) (s : State) : ∃ t, exec i s = .next t ∧ Effects (effectsOf i) s t := by
  have h0 : Effects (effectsOf i) s s := .refl s
  cases i with
  | br n z p f =>
    refine ⟨_, exec_br s n z p f, ?_⟩
    split
    · exact h0.andThen (.setPc s _)
    · exact h0
  | addReg d a b => exact ⟨_, exec_addReg s d a b, h0.setRegCC d _⟩
  | addImm d a f => exact ⟨_, exec_addImm s d a f, h0.setRegCC d _⟩
  | ld d f => exact ⟨_, exec_ld s d f, (h0.memRead _).setRegCC d _⟩
  | st r f => exact ⟨_, exec_st s r f, h0.andThen (.write s _ _)⟩
  | jsr f => exact ⟨_, exec_jsr s f, (h0.andThen (.setReg s 7 s.pc)).andThen (.setPc _ _)⟩
  | jsrr b => exact ⟨_, exec_jsrr s b, (h0.andThen (.setReg s 7 s.pc)).andThen (.setPc _ _)⟩
  | andReg d a b => exact ⟨_, exec_andReg s d a b, h0.andThen (.setReg s d _)⟩
  | andImm d a f => exact ⟨_, exec_andImm s d a f, h0.andThen (.setReg s d _)⟩
  | ldr d b f => exact ⟨_, exec_ldr s d b f, (h0.memRead _).setRegCC d _⟩
  | str r b f => exact ⟨_, exec_str s r b f, h0.andThen (.write s _ _)⟩
  | rti => exact ⟨_, exec_rti s, h0.andThen (.report s _)⟩
  | not d a => exact ⟨_, exec_not s d a, h0.setRegCC d _⟩
  | ldi d f => exact ⟨_, exec_ldi s d f, ((h0.memRead _).memRead _).setRegCC d _⟩
  | sti r f => exact ⟨_, exec_sti s r f, (h0.memRead _).andThen (.write _ _ _)⟩
  | jmp b => exact ⟨_, exec_jmp s b, h0.andThen (.setPc s _)⟩
  | res => exact ⟨_, exec_res s, h0.andThen (.report s _)⟩
  | lea d f => exact ⟨_, exec_lea s d f, h0.setRegCC d _⟩
  | trap code => exact ⟨_, exec_trap s code, h0.trapEntry.andThen (.report _ _)⟩
  | getc => exact ⟨_, exec_getc s, h0.trapEntry.inputRoutine false rfl⟩
  | out => exact ⟨_, exec_out s, h0.trapEntry.andThen (.emit _ _)⟩
  | puts => exact ⟨_, exec_puts s, h0.trapEntry.stringLoop _ (fun _ => rfl) _ _⟩
  | inp => exact ⟨_, exec_inp s, (h0.trapEntry.andThen (.emit _ _)).inputRoutine true rfl⟩
  | putsp => exact ⟨_, exec_putsp s, h0.trapEntry.stringLoop _ (fun _ => rfl) _ _⟩
  | halt =>
    exact ⟨_, exec_halt s, (h0.trapEntry.andThen (.emit _ _)).andThen (.halt _)⟩

theorem effects_of_exec {i : Instr} {s t : State} (h : exec i s = .next t) : Effects (effectsOf i) s t := by
  obtain ⟨u, hu, he⟩ := exec_effects i s
  rwa [next_unique h hu]

end Sys2Proof.Machine

namespace Sys2Proof.Machine

/-! ### What each kind of change leaves alone -/

namespace Does

variable {e : Effect} {s t : State}

theorem config (h : Does e s t) : t.config = s.config := by
  cases h with
  | poll => exact keyboardIntercept_config s
  | _ => rfl

theorem pc (h : Does e s t) (he : e ≠ .pc) : t.pc = s.pc := by
  cases h with
  | setPc => exact absurd rfl he
  | poll => exact keyboardIntercept_pc s
  | _ => rfl

theorem out (h : Does e s t) (he : e ≠ .emit) : t.out = s.out := by
  cases h with
  | emit => exact absurd rfl he
  | poll => exact keyboardIntercept_out s
  | _ => rfl

theorem ir (h : Does e s t) (he : e ≠ .loop) : t.ir = s.ir := by
  cases h with
  | setIr | enter | leave => exact absurd rfl he
  | poll => exact keyboardIntercept_ir s
  | _ => rfl

/-- Only a poll or a blocking request concerns the source and the free values. -/
theorem source (h : Does e s t) (hp : e ≠ .poll) (ha : e ≠ .ask) : t.input = s.input ∧ t.draws = s.draws := by
  cases h with
  | poll => exact absurd rfl hp
  | take | interrupt | draw => exact absurd rfl ha
  | _ => exact ⟨rfl, rfl⟩

theorem mem (h : Does e s t) (hs : e ≠ .store) (hp : e ≠ .poll) : t.mem = s.mem := by
  cases h with
  | write => exact absurd rfl hs
  | poll => exact absurd rfl hp
  | _ => rfl

/-- Memory stays canonical. -/
theorem canonical (h : Does e s t) (hs : s.mem.wf = true) : t.mem.wf = true := by
  cases h with
  | write _ a v => exact Memory.wf_write hs a v
  | poll => exact keyboardIntercept_wf hs
  | _ => exact hs

end Does

/-! ### Streams and the source only move one way (10_state.md R37) -/

/-- OUT and DIAG were extended, answers were taken in order, and free values were drawn, if anything. -/
structure Grows (s t : State) : Prop where
  out : s.out <+: t.out
  diag : s.diag <+: t.diag
  input : t.input <:+ s.input
  draws : s.draws ≤ t.draws

theorem Grows.refl (s : State) : Grows s s :=
  ⟨List.prefix_refl _, List.prefix_refl _, List.suffix_refl _, Nat.le_refl _⟩

theorem Grows.trans {s t u : State} (h : Grows s t) (h' : Grows t u) : Grows s u :=
  ⟨h.out.trans h'.out, h.diag.trans h'.diag, h'.input.trans h.input, h.draws.trans h'.draws⟩

/-- The answers after a poll are those listed behind its own, and the free values have not moved back. -/
theorem grows_keyboardIntercept (s : State) : Grows s (keyboardIntercept s) := by
  obtain ⟨answer, rest, draws, ha⟩ := exists_pollAnswer s
  obtain ⟨-, hdiag, hin, hdraws⟩ := keyboardIntercept_of_answer ha
  refine ⟨by rw [keyboardIntercept_out], hdiag ▸ List.prefix_append _ _, ?_, ?_⟩
  · rw [hin]
    rcases ha with ⟨hi, -⟩ | ⟨-, -, rfl, -⟩
    · exact hi ▸ List.suffix_cons answer rest
    · exact List.nil_suffix
  · rw [hdraws]
    rcases ha with ⟨-, rfl⟩ | ⟨-, -, -, rfl⟩ <;> omega

theorem Does.grows {e : Effect} {s t : State} (h : Does e s t) : Grows s t := by
  cases h with
  | poll => exact grows_keyboardIntercept s
  | emit _ b => exact { Grows.refl s with out := List.prefix_append s.out b }
  | report _ k => exact { Grows.refl s with diag := List.prefix_append s.diag [k] }
  | take _ h | interrupt _ h => exact { Grows.refl s with input := h ▸ List.suffix_append _ _ }
  | draw => exact { Grows.refl s with draws := Nat.le_succ s.draws }
  | _ => exact { Grows.refl s with }

/-- A property that each listed kind of change keeps, at states that have only grown since the first, is kept. -/
theorem Effects.keeps_since {l : List Effect} {s t : State} {P : State → Prop} (h : Effects l s t)
    (hP : ∀ e ∈ l, ∀ u v, Grows s u → Does e u v → P u → P v) (hs : P s) : Grows s t ∧ P t :=
  h.keeps (P := fun u => Grows s u ∧ P u)
    (fun e he u v hd hu => ⟨hu.1.trans hd.grows, hP e he u v hu.1 hd hu.2⟩) ⟨.refl s, hs⟩

/-! ### A step as effects (40_dispatcher.md R110, R111) -/

/-- What a routine that waits or loops may still do. -/
def insideEffects : List Effect := [.regs, .flags, .poll, .ask, .emit, .report, .phase]

/-- A step inside an iteration: the routine goes on, then the iteration's end. -/
theorem step_inside {s : State} (hb : s.phase.between = false) :
    ∃ u, Effects insideEffects s u ∧ step s = .next (endIteration u) := by
  have h0 : Effects insideEffects s s := .refl s
  cases hp : s.phase with
  | beforeRun | loopCheck | ended => exact absurd (hp ▸ hb) (by decide)
  | waitGetc =>
    exact ⟨_, h0.inputRoutine false rfl (by simp [insideEffects]) (by simp [insideEffects]) (by simp [insideEffects])
      (by simp) (by simp [insideEffects]) (by simp [insideEffects]), step_waitGetc hp⟩
  | waitIn =>
    exact ⟨_, h0.inputRoutine true rfl (by simp [insideEffects]) (by simp [insideEffects]) (by simp [insideEffects])
      (by simp [insideEffects]) (by simp [insideEffects]) (by simp [insideEffects]), step_waitIn hp⟩
  | inPuts a =>
    exact ⟨_, h0.stringLoop _ (fun _ => rfl) _ a (by simp [insideEffects]) (by simp [insideEffects])
      (by simp [insideEffects]), step_inPuts hp⟩
  | inPutsp a =>
    exact ⟨_, h0.stringLoop _ (fun _ => rfl) _ a (by simp [insideEffects]) (by simp [insideEffects])
      (by simp [insideEffects]), step_inPutsp hp⟩

/-- The instruction that an iteration from the loop check executes. -/
def fetched (s : State) : Instr := decode (fetch (bumpAt .beforeFetch s)).1

/-- What a step can do: enter the run, return, stay ended, or the end of an iteration after a handler from the fetched
state or after a routine that went on. -/
theorem step_cases {s t : State} (h : step s = .next t) :
    (s.phase = .beforeRun ∧ t = runEntry s) ∨
    (s.phase = .loopCheck ∧ t = s.setPhase .ended ∧ s.running = false) ∨
    (s.phase = .ended ∧ t = s) ∨
    (AtLoop s ∧ ∃ u, Effects (effectsOf (fetched s)) (fetch (bumpAt .beforeFetch s)).2 u ∧ t = endIteration u) ∨
    (s.phase.between = false ∧ ∃ u, Effects insideEffects s u ∧ t = endIteration u) := by
  cases hp : s.phase with
  | beforeRun => exact .inl ⟨rfl, next_unique h (step_beforeRun hp)⟩
  | loopCheck =>
    cases hr : s.running with
    | false => exact .inr (.inl ⟨rfl, next_unique h (step_returns hp hr), rfl⟩)
    | true =>
      obtain ⟨u, hu, he⟩ := exec_effects (fetched s) (fetch (bumpAt .beforeFetch s)).2
      rw [step_iterate hp hr] at h
      exact .inr (.inr (.inr (.inl ⟨⟨hp, hr⟩, u, he, next_unique h (iterate_next hu)⟩)))
  | ended => exact .inr (.inr (.inl ⟨rfl, next_unique h (step_ended hp)⟩))
  | waitGetc | waitIn | inPuts | inPutsp =>
    obtain ⟨u, hu, hs⟩ := step_inside (s := s) (by rw [hp]; rfl)
    exact .inr (.inr (.inr (.inr ⟨rfl, u, hu, next_unique h hs⟩)))

namespace Effects

variable {l : List Effect} {s t : State}

theorem bumpAt (h : Effects l s t) (here : CounterPhase) (hs : .store ∈ l) : Effects l s (Machine.bumpAt here t) := by
  unfold Machine.bumpAt
  split
  · exact h.andThen (.write _ _ _) hs
  · exact h

theorem fetch (h : Effects l s t) (hp : .poll ∈ l) (hl : .loop ∈ l) (hc : .pc ∈ l) :
    Effects l s (Machine.fetch t).2 :=
  ((h.memRead t.pc hp).andThen (.setIr _ _) hl).andThen (.setPc _ _) hc

theorem endIteration (h : Effects l s t) (hs : .store ∈ l) (hl : .loop ∈ l) : Effects l s (Machine.endIteration t) := by
  unfold Machine.endIteration
  split
  · exact (h.bumpAt .afterExecute hs).andThen (.setIr _ none) hl
  · exact h

end Effects

/-- A step as a whole: the changes of the run loop and those of the routine it runs, of which only HALT clears RUNNING
outright. -/
theorem step_effects {s t : State} (h : step s = .next t) :
    ∃ l, Effects (.store :: .poll :: .loop :: .pc :: l) s t ∧
      (.halt ∈ l → s.phase = .loopCheck ∧ fetched s = .halt) := by
  rcases step_cases h with ⟨-, rfl⟩ | ⟨-, rfl, -⟩ | ⟨-, rfl⟩ | ⟨⟨hp, -⟩, u, hu, rfl⟩ | ⟨-, u, hu, rfl⟩
  · exact ⟨[], (Effects.refl s).andThen (.enter s), by simp⟩
  · exact ⟨[], (Effects.refl s).andThen (.leave s), by simp⟩
  · exact ⟨[], .refl t, by simp⟩
  · refine ⟨effectsOf (fetched s), ?_, fun hh => ⟨hp, ?_⟩⟩
    · have hf := (((Effects.refl s).bumpAt .beforeFetch (by simp)).fetch (by simp) (by simp) (by simp) :
        Effects (.store :: .poll :: .loop :: .pc :: effectsOf (fetched s)) s _)
      exact Effects.endIteration (hf.trans (hu.mono (by simp_all))) (by simp) (by simp)
    · cases hi : fetched s <;> simp [hi, effectsOf] at hh ⊢
  · exact ⟨insideEffects, (hu.mono (by simp_all)).endIteration (by simp) (by simp), by simp [insideEffects]⟩

end Sys2Proof.Machine

namespace Sys2Proof.Machine

/-! ### Statements about every instruction, from its effects -/

/-- Settles O23: of the instructions, only BR, JMP, JSR and JSRR may write PC. -/
theorem onlyControlTransfersWritePc : Obligations.OnlyControlTransfersWritePc := by
  intro i s t ht hbr hjmp hjsr hjsrr
  have hpc : .pc ∉ effectsOf i := by
    cases i with
    | br n z p f => exact absurd rfl (hbr n z p f)
    | _ => simp_all [effectsOf]
  exact (effects_of_exec ht).same fun e he u v hd => hd.pc fun hepc => hpc (hepc ▸ he)

/-- Settles O37: every other instruction neither polls nor makes a blocking request. -/
theorem otherInstructionsMakeNoInputRequest : Obligations.OtherInstructionsMakeNoInputRequest := by
  intro i s t ht hld hldi hldr hsti hputs hputsp hgetc hinp
  have hi : .poll ∉ effectsOf i ∧ .ask ∉ effectsOf i := by cases i <;> simp_all [effectsOf]
  have hsrc : ∀ e ∈ effectsOf i, ∀ u v, Does e u v → v.input = u.input ∧ v.draws = u.draws :=
    fun e he u v hd => hd.source (fun h => hi.1 (h ▸ he)) (fun h => hi.2 (h ▸ he))
  exact ⟨(effects_of_exec ht).same fun e he u v hd => (hsrc e he u v hd).1,
    (effects_of_exec ht).same fun e he u v hd => (hsrc e he u v hd).2⟩

/-- Settles O38: every other instruction emits nothing. -/
theorem onlyTheOutputRoutinesEmit : Obligations.OnlyTheOutputRoutinesEmit := by
  intro i s t ht hout hputs hinp hputsp hhalt
  have hi : .emit ∉ effectsOf i := by cases i <;> simp_all [effectsOf]
  exact (effects_of_exec ht).same fun e he u v hd => hd.out fun h => hi (h ▸ he)

/-- The intercept writes no cell but KBSR and KBDR. -/
theorem keyboardIntercept_read_other {s : State} (hw : s.mem.wf = true) {a : Word} (hs : a ≠ s.config.kbsrAddr)
    (hd : a ≠ s.config.kbdrAddr) : (keyboardIntercept s).mem.read a = s.mem.read a := by
  obtain ⟨answer, rest, draws, ha⟩ := exists_pollAnswer s
  have hp := poll_of_answer ha
  have hsr (v : Word) : (s.mem.write s.config.kbsrAddr v).read a = s.mem.read a := Memory.read_write_other hw hs v
  cases answer with
  | key k =>
    rw [keyboardIntercept_key hp]
    exact (Memory.read_write_other (Memory.wf_write hw _ _) hd _).trans (hsr _)
  | noKey => rw [keyboardIntercept_noKey hp]; exact hsr _
  | interrupted => rw [keyboardIntercept_interrupted hp]; exact hsr _
  | error => rw [keyboardIntercept_error hp]; exact hsr _

/-- An answer was taken since `s`, listed or free. -/
def Took (s t : State) : Prop := t.input.length < s.input.length ∨ s.draws < t.draws

/-- A poll takes a listed answer or moves the free values on, so it cannot leave both as they were. -/
theorem took_keyboardIntercept (s : State) : Took s (keyboardIntercept s) := by
  obtain ⟨answer, rest, draws, ha⟩ := exists_pollAnswer s
  obtain ⟨-, -, hi, hd⟩ := keyboardIntercept_of_answer ha
  rcases ha with ⟨hin, -⟩ | ⟨-, -, -, rfl⟩
  · exact .inl (by rw [hi, hin]; exact Nat.lt_succ_self _)
  · exact .inr (by rw [hd]; exact Nat.lt_succ_self _)

theorem Took.mono {s t u : State} (h : Took s t) (hg : Grows t u) : Took s u :=
  h.imp hg.input.length_le.trans_lt (lt_of_lt_of_le · hg.draws)

theorem Took.since {s t u : State} (h : Took t u) (hg : Grows s t) : Took s u :=
  h.imp (lt_of_lt_of_le · hg.input.length_le) hg.draws.trans_lt

/-- Without plain stores, canonical memory changes in the two device cells alone. -/
theorem Effects.other_cells {l : List Effect} {s t : State} (h : Effects l s t) (hl : .store ∉ l)
    (hw : s.mem.wf = true) {a : Word} (hs : a ≠ s.config.kbsrAddr) (hd : a ≠ s.config.kbdrAddr) :
    CanonicalUnder s.config t ∧ t.mem.read a = s.mem.read a := by
  refine h.keeps (P := fun u => CanonicalUnder s.config u ∧ u.mem.read a = s.mem.read a) ?_ ⟨⟨hw, rfl⟩, rfl⟩
  rintro e he u v hdo ⟨⟨hu, hcfg⟩, hr⟩
  refine ⟨⟨hdo.canonical hu, hdo.config.trans hcfg⟩, ?_⟩
  by_cases hp : e = .poll
  · subst hp
    cases hdo
    exact (keyboardIntercept_read_other hu (hcfg ▸ hs) (hcfg ▸ hd)).trans hr
  · exact (congrArg (Memory.read · a) (hdo.mem (fun h => hl (h ▸ he)) hp)).trans hr

/-- Without plain stores, memory is as it was until an answer is taken. -/
theorem Effects.mem_until_taken {l : List Effect} {s t : State} (h : Effects l s t) (hl : .store ∉ l) :
    Took s t ∨ t.mem = s.mem := by
  refine (h.keeps_since (P := fun u => Took s u ∨ u.mem = s.mem) ?_ (.inr rfl)).2
  intro e he u v hg hdo hu
  by_cases hp : e = .poll
  · subst hp
    cases hdo
    exact .inl ((took_keyboardIntercept u).since hg)
  · rw [hdo.mem (fun h => hl (h ▸ he)) hp]
    exact hu.imp_left (·.mono hdo.grows)

/-- Settles O39: an instruction that does not store changes memory by polls alone; a poll writes the two device cells,
and takes an answer. -/
theorem onlyStoresAndPollsWriteMemory : Obligations.OnlyStoresAndPollsWriteMemory := by
  intro i s t ht hst hsti hstr
  have hi : .store ∉ effectsOf i := by cases i <;> simp_all [effectsOf]
  have hx := effects_of_exec ht
  refine ⟨fun hw a ha => ?_, fun hin hdr => (hx.mem_until_taken hi).resolve_left (by simp [Took, hin, hdr])⟩
  obtain ⟨hs, hd⟩ : a ≠ s.config.kbsrAddr ∧ a ≠ s.config.kbdrAddr := by simpa using ha
  exact (hx.other_cells hi hw hs hd).2

/-! ### Statements about every step -/

/-- Settles O53: no kind of change touches the parameters. -/
theorem noStepChangesTheParameters : Obligations.NoStepChangesTheParameters := by
  intro s t ht
  obtain ⟨l, hl, -⟩ := step_effects ht
  exact hl.same fun e he u v hd => hd.config

theorem step_grows {s t : State} (h : step s = .next t) : Grows s t := by
  obtain ⟨l, hl, -⟩ := step_effects h
  exact (hl.keeps_since (P := fun _ => True) (fun _ _ _ _ _ _ h => h) trivial).1

/-- A run only grows its streams, by induction on the number of steps. -/
theorem run_grows {k : Nat} {s t : State} (h : Host.Core.run Sys2Proof.core k s = .next t) : Grows s t := by
  induction k generalizing s with
  | zero => exact Host.Outcome.next.inj h ▸ Grows.refl s
  | succ k ih =>
    obtain ⟨u, hu⟩ := step_exists_next s
    rw [run_succ k hu] at h
    exact (step_grows hu).trans (ih h)

/-- Settles O54: no kind of change shortens a stream or gives an answer back, so no step and no run does. -/
theorem streamsOnlyGrowAndInputIsConsumedInOrder : Obligations.StreamsOnlyGrowAndInputIsConsumedInOrder :=
  fun _ _ _ h => ⟨(run_grows h).out, (run_grows h).diag, (run_grows h).input⟩

/-- An interrupt was among the answers taken since `s`, listed or free. -/
def InterruptTaken (s t : State) : Prop :=
  (∃ taken, s.input = taken ++ t.input ∧ .interrupted ∈ taken) ∨
  (∃ n, s.draws ≤ n ∧ n < t.draws ∧ Config.pollBeyond n = .interrupted)

/-- An interrupt taken stays taken. -/
theorem InterruptTaken.mono {s t u : State} (h : InterruptTaken s t) (hg : Grows t u) : InterruptTaken s u := by
  rcases h with ⟨taken, htaken, hmem⟩ | ⟨n, hsn, hnt, hn⟩
  · obtain ⟨more, hmore⟩ := hg.input
    exact .inl ⟨taken ++ more, by rw [htaken, ← hmore, List.append_assoc], List.mem_append_left _ hmem⟩
  · exact .inr ⟨n, hsn, lt_of_lt_of_le hnt hg.draws, hn⟩

theorem InterruptTaken.since {s t u : State} (h : InterruptTaken t u) (hg : Grows s t) : InterruptTaken s u := by
  rcases h with ⟨taken, htaken, hmem⟩ | ⟨n, htn, hnu, hn⟩
  · obtain ⟨before, hbefore⟩ := hg.input
    exact .inl ⟨before ++ taken, by rw [← hbefore, htaken, List.append_assoc], List.mem_append_right _ hmem⟩
  · exact .inr ⟨n, hg.draws.trans htn, hnu, hn⟩

/-- Every change but HALT's leaves RUNNING true, or takes an interrupt. -/
theorem Does.running {e : Effect} {s t : State} (h : Does e s t) (he : e ≠ .halt) (hr : s.running = true) :
    t.running = true ∨ InterruptTaken s t := by
  cases h with
  | halt => exact absurd rfl he
  | interrupt _ h hi => exact .inr (.inl ⟨_, h, hi⟩)
  | poll =>
    obtain ⟨answer, rest, draws, ha⟩ := exists_pollAnswer s
    obtain ⟨hrun, -, hin, hdr⟩ := keyboardIntercept_of_answer ha
    by_cases hint : answer = .interrupted
    · right
      rcases ha with ⟨hi, rfl⟩ | ⟨hi, hfree, -, rfl⟩
      · exact .inl ⟨[answer], by rw [hin, hi]; rfl, by simp [hint]⟩
      · exact .inr ⟨s.draws, le_refl _, by omega, hfree.symm.trans hint⟩
    · left
      rw [hrun, if_neg hint, hr]
  | enter => exact .inl rfl
  | _ => exact .inl hr

/-- Settles O55: along the changes of a step without HALT's, RUNNING stays true until an interrupt is taken. -/
theorem onlyHaltAndInterruptsClearRunning : Obligations.OnlyHaltAndInterruptsClearRunning := by
  intro s t ht hrun hstop
  obtain ⟨l, hl, hhalt⟩ := step_effects ht
  by_cases hh : .halt ∈ l
  · exact .inl (hhalt hh)
  · have hrunning : t.running = true ∨ InterruptTaken s t := by
      refine (hl.keeps_since (P := fun u => u.running = true ∨ InterruptTaken s u) ?_ (.inl hrun)).2
      rintro e he u v hg hd (hu | hu)
      · exact (hd.running (by rintro rfl; simp_all) hu).imp_right (·.since hg)
      · exact .inr (hu.mono hd.grows)
    exact .inr (hrunning.resolve_left (by simp [hstop]))

/-- At the loop check or inside a routine: where a handler starts and where it may leave the core. -/
def Phase.withinRun (p : Phase) : Prop := p = .loopCheck ∨ p.between = false

/-- Only the run loop touches the instruction word, or leads out of its iterations. -/
theorem Does.within {e : Effect} {s t : State} (h : Does e s t) (he : e ≠ .loop) (hp : s.phase.withinRun) :
    t.ir = s.ir ∧ t.phase.withinRun := by
  refine ⟨h.ir he, ?_⟩
  cases h with
  | setIr | enter | leave => exact absurd rfl he
  | setPhase _ p hp' => exact hp'
  | poll => rwa [keyboardIntercept_phase]
  | _ => exact hp

/-- At an iteration's end the invariant holds: the word is dropped exactly where the handler is done. -/
theorem inv_endIteration {s : State} (hw : s.mem.wf = true) (hir : s.ir ≠ none) (hp : s.phase.withinRun) :
    Inv (endIteration s) := by
  refine ⟨endIteration_wf hw, ?_, ?_⟩
  · rcases hp with hp | hp
    · simp [endIteration_done hp, hp, Phase.between]
    · rw [endIteration_inside (by rintro h; simp [h, Phase.between] at hp)]
      simp [hir, hp]
  · rw [endIteration_phase]
    rintro (h | h) <;> simp [Phase.withinRun, Phase.between, h] at hp

/-- From a state within an iteration, a handler or routine and the iteration's end lead to a state with the
invariant. -/
theorem inv_of_effects {l : List Effect} {s u : State} (h : Effects l s u) (hl : .loop ∉ l) (hw : s.mem.wf = true)
    (hir : s.ir ≠ none) (hp : s.phase.withinRun) : Inv (endIteration u) := by
  have hu : u.mem.wf = true ∧ u.ir = s.ir ∧ u.phase.withinRun := by
    refine h.keeps (P := fun v => v.mem.wf = true ∧ v.ir = s.ir ∧ v.phase.withinRun) ?_ ⟨hw, rfl, hp⟩
    rintro e he v w hd ⟨hwv, hirv, hpv⟩
    obtain ⟨hirw, hpw⟩ := hd.within (by rintro rfl; exact hl he) hpv
    exact ⟨hd.canonical hwv, hirw.trans hirv, hpw⟩
  exact inv_endIteration hu.1 (hu.2.1 ▸ hir) hu.2.2

theorem fetch_phase (s : State) : (fetch s).2.phase = s.phase := memRead_phase s s.pc

/-- Settles O52: entering and leaving the run keep the invariant; an iteration starts from a fetched state, a routine
goes on from its phase, and each ends with the invariant. -/
theorem everyStepKeepsTheInvariant : Obligations.EveryStepKeepsTheInvariant := by
  rintro s t ⟨hw, hir, hrun⟩ ht
  rcases step_cases ht with ⟨hp, rfl⟩ | ⟨hp, rfl, hr⟩ | ⟨-, rfl⟩ | ⟨⟨hp, -⟩, u, hu, rfl⟩ | ⟨hb, u, hu, rfl⟩
  · exact ⟨hw, by simpa [runEntry, hp, Phase.between] using hir, by simp [runEntry]⟩
  · exact ⟨hw, by simpa [hp, Phase.between] using hir, fun _ => hr⟩
  · exact ⟨hw, hir, hrun⟩
  · refine inv_of_effects hu ?_ (CanonicalUnder.mk (bumpAt_wf hw) rfl).fetch.canonical (Option.some_ne_none _) (.inl ?_)
    · cases fetched s <;> simp [effectsOf]
    · rw [fetch_phase, bumpAt_phase, hp]
  · exact inv_of_effects hu (by simp [insideEffects]) hw (fun h => by simp [hir.1 h] at hb) (.inr hb)

end Sys2Proof.Machine

namespace Sys2Proof.Machine

/-! ### Register instructions (41_operate.md, 42_load_store.md R156)

`R[DR] <- v; SetCC(R[DR])` writes DR and COND and nothing else; the operate instructions, LEA and the loads end in
it. -/

theorem regsSameBut_setReg (s : State) (d : RegIndex) (v : Word) : RegsSameBut [d] s (s.setReg d v) := by
  intro r hr
  rw [State.reg_setReg, if_neg (by simpa using hr)]

theorem wroteWithFlags_setRegCC (s : State) (d : RegIndex) (v : Word) : WroteWithFlags d v s (s.setRegCC d v) := by
  refine ⟨by simp, signOf_condOf v, fun r hr => ?_, rfl⟩
  rw [State.reg_setRegCC, if_neg (by simpa using hr)]

theorem restSame_setRegCC (s : State) (d : RegIndex) (v : Word) : RestSame s (s.setRegCC d v) :=
  ⟨rfl, ⟨rfl, rfl, rfl, rfl⟩, rfl, rfl, rfl, rfl⟩

/-- The two facts for a value written otherwise. -/
theorem wrote_setRegCC {s : State} {d : RegIndex} {v w : Word} (h : v = w) :
    WroteWithFlags d w s (s.setRegCC d v) ∧ RestSame s (s.setRegCC d v) :=
  h ▸ ⟨wroteWithFlags_setRegCC s d v, restSame_setRegCC s d v⟩

/-- Settles O8: the handlers write the sum, which is the sum of the numbers modulo 65,536. -/
theorem addWritesTheSumAndItsSign : Obligations.AddWritesTheSumAndItsSign := by
  refine ⟨fun dr a b s => ⟨_, exec_addReg s dr a b, wrote_setRegCC ?_⟩,
    fun dr a f s => ⟨_, exec_addImm s dr a f, wrote_setRegCC (add_sext _ f)⟩⟩
  rw [BitVec.ofNat_add, BitVec.ofNat_toNat, BitVec.ofNat_toNat]
  simp

/-- Settles O9: the handlers write the conjunction, bit by bit, and no flag. -/
theorem andWritesTheConjunctionAndNoFlag : Obligations.AndWritesTheConjunctionAndNoFlag := by
  have hrest (s : State) (d : RegIndex) (v : Word) : RestSame s (s.setReg d v) :=
    ⟨rfl, ⟨rfl, rfl, rfl, rfl⟩, rfl, rfl, rfl, rfl⟩
  refine ⟨fun dr a b s => ⟨_, exec_andReg s dr a b, fun i _ => ?_, rfl, regsSameBut_setReg _ _ _, rfl, hrest ..⟩,
    fun dr a f s => ⟨_, exec_andImm s dr a f, fun i hi => ?_, rfl, regsSameBut_setReg _ _ _, rfl, hrest ..⟩⟩
  · simp
  · obtain ⟨-, -, -, hbits⟩ := sext_keeps_value_and_copies_sign (m := 4) (by decide) f
    rw [State.reg_setReg, if_pos rfl, BitVec.getLsbD_and, hbits i hi]

/-- Settles O10: the complement of a 16-bit number is 65535 minus it. -/
theorem notWritesTheComplementAndItsSign : Obligations.NotWritesTheComplementAndItsSign := by
  refine fun dr sr s => ⟨_, exec_not s dr sr, wrote_setRegCC (BitVec.eq_of_toNat_eq ?_)⟩
  rw [BitVec.toNat_not, BitVec.toNat_ofNat]
  omega

/-- Settles O11: LEA writes the sum of PC and the offset, and reads no memory. -/
theorem leaWritesTheAddressWithoutMemory : Obligations.LeaWritesTheAddressWithoutMemory :=
  fun dr f s => ⟨_, exec_lea s dr f, wrote_setRegCC (add_sext s.pc f)⟩

/-- Settles O12: the complement plus 1 is the negation, and adding it subtracts. -/
theorem subtractionIsNotAddOneAdd : Obligations.SubtractionIsNotAddOneAdd := by
  intro a b s hab
  refine ⟨_, _, _, exec_not s b b, exec_addImm _ b b 1#5, exec_addReg _ a a b, ?_⟩
  have hone : sext 1#5 = 1#16 := by decide
  simp only [State.reg_setRegCC, if_pos, if_neg hab, hone, BitVec.toNat_add, BitVec.toNat_not, BitVec.toNat_ofNat]
  omega

/-! ### Control transfer (43_control.md) -/

/-- The one-hot code of COND. -/
def oneHot : Cond → BitVec 3
  | .n => 0b100#3
  | .z => 0b010#3
  | .p => 0b001#3

/-- The branch condition is the document's: the requested bits AND the code of COND is not 0. -/
theorem branchTaken_iff (n z p : Bool) (c : Cond) :
    branchTaken n z p c = true ↔ (BitVec.ofBool n ++ BitVec.ofBool z ++ BitVec.ofBool p) &&& oneHot c ≠ 0#3 := by
  cases c <;> revert n z p <;> decide

/-- Settles O19: PC is the only field a branch may write, and it writes it when the condition holds. -/
theorem branchFollowsTheFlags : Obligations.BranchFollowsTheFlags := by
  intro n z p f s
  refine ⟨_, exec_br s n z p f, ?_, ?_⟩
  · have hpc (b : Bool) : (if b then s.setPc (pcRelative f s) else s).pc =
        if b = true then BitVec.ofInt 16 (s.pc.toNat + f.toInt) else s.pc := by
      cases b with
      | true => exact add_sext s.pc f
      | false => rfl
    rw [hpc]
    cases s.cond with
    | n => exact if_congr (branchTaken_iff n z p .n) rfl rfl
    | z => exact if_congr (branchTaken_iff n z p .z) rfl rfl
    | p => exact if_congr (branchTaken_iff n z p .p) rfl rfl
  · cases branchTaken n z p s.cond <;>
      exact ⟨fun _ _ => rfl, rfl, rfl, ⟨rfl, rfl, rfl, rfl⟩, rfl, rfl, rfl, rfl⟩

/-- Settles O20: the next state is `s` with another PC. -/
theorem jumpSetsPcOnly : Obligations.JumpSetsPcOnly :=
  fun b s => ⟨_, exec_jmp s b, rfl, fun _ _ => rfl, rfl, rfl, ⟨rfl, rfl, rfl, rfl⟩, rfl, rfl, rfl, rfl⟩

/-- Settles O21: the link writes R7 only, and PC then moves by the sign-extended offset. -/
theorem jsrLinksAndJumps : Obligations.JsrLinksAndJumps :=
  fun f s => ⟨_, exec_jsr s f, link_reg s 7, add_sext s.pc f, regsSameBut_setReg s 7 s.pc, rfl, rfl,
    ⟨rfl, rfl, rfl, rfl⟩, rfl, rfl, rfl, rfl⟩

/-- Settles O22: the base read after the link is the link for R7 and the register as it was for every other. -/
theorem jsrrLinksAndJumpsInEitherOrder : Obligations.JsrrLinksAndJumpsInEitherOrder := by
  intro b s
  refine ⟨_, exec_jsrr s b, link_reg s 7, ?_, regsSameBut_setReg s 7 s.pc, rfl, rfl, ⟨rfl, rfl, rfl, rfl⟩, rfl, rfl,
    rfl, rfl⟩
  show (if s.config.jsrrBaseAfterLink then (link s).reg b else s.reg b) = _
  rw [link_reg]
  split <;> simp_all

/-! ### Reserved opcodes and the short trap routines (40_dispatcher.md R117, 44_trap.md) -/

/-- Settles O24: either handler answers `s` with one report. -/
theorem reservedOpcodesReportAndGoOn : Obligations.ReservedOpcodesReportAndGoOn :=
  fun s => ⟨⟨_, exec_rti s, rfl, rfl⟩, _, exec_res s, rfl, rfl⟩

/-- Settles O25: the entry of a TRAP may write R7, and the generic routine only reports. -/
theorem unknownTrapReportsAndGoesOn : Obligations.UnknownTrapReportsAndGoesOn := by
  intro code s
  refine ⟨_, exec_trap s code, by simp, regsSameBut_trapEntry s, trapLink_trapEntry s, ?_⟩
  simp [LoopSame]

theorem lowByte_eq_ofNat (v : Word) : lowByte v = BitVec.ofNat 8 (v.toNat % 256) := by
  rw [lowByte, BitVec.extractLsb', Nat.shiftRight_zero]
  exact BitVec.eq_of_toNat_eq (by simp)

/-- Settles O29: the entry of a TRAP may write R7, and the routine only emits. -/
theorem outEmitsTheLowByte : Obligations.OutEmitsTheLowByte := by
  intro s
  refine ⟨_, exec_out s, ?_, regsSameBut_trapEntry s, trapLink_trapEntry s, ?_⟩
  · rw [State.out_emit, trapEntry_out, lowByte_eq_ofNat]
  · simp [LoopSame]

/-- Settles O30: the entry of a TRAP may write R7, and HALT emits and clears RUNNING. -/
theorem haltClearsRunning : Obligations.HaltClearsRunning := by
  intro s
  refine ⟨_, exec_halt s, rfl, by simp, regsSameBut_trapEntry s, trapLink_trapEntry s, ?_⟩
  simp

end Sys2Proof.Machine

namespace Sys2Proof.Machine

/-! ### Memory after a poll (20_memory.md R52, R53) -/

/-- Keys that are no address are unlisted. -/
theorem lookupCell_beyond {lo a : Nat} {m : Memory} (h : cellsFrom lo m = true) (ha : memCells ≤ a) :
    lookupCell m a = unlisted := by
  induction m generalizing lo with
  | nil => rfl
  | cons c rest ih =>
    obtain ⟨k, w⟩ := c
    obtain ⟨-, hk, -, hrest⟩ := cellsFrom_cons.1 h
    rw [lookupCell, if_neg (by omega)]
    exact ih hrest

/-- Canonical memories that read alike at every address are equal. -/
theorem Memory.ext_read {m m' : Memory} (h : m.wf = true) (h' : m'.wf = true) (heq : ∀ a, m.read a = m'.read a) :
    m = m' := by
  refine cells_ext h h' fun k => ?_
  by_cases hk : k < memCells
  · have hread := heq (BitVec.ofNat 16 k)
    rwa [Memory.read, Memory.read, BitVec.toNat_ofNat, Nat.mod_eq_of_lt (show k < 2 ^ 16 from hk)] at hread
  · rw [lookupCell_beyond h (by omega), lookupCell_beyond h' (by omega)]

/-- Settles O35, by the laws of the memory array. -/
theorem readReturnsTheLatestWrite : Obligations.ReadReturnsTheLatestWrite :=
  ⟨fun _ a _ v h => ⟨Memory.wf_write h a v, Memory.read_write_same h a v, fun hne => Memory.read_write_other h hne v⟩,
    fun _ _ => Memory.ext_read⟩

theorem zext_byte_eq_ofNat (k : Byte) : zext k = BitVec.ofNat 16 k.toNat :=
  BitVec.eq_of_toNat_eq (by rw [toNat_zext_byte, BitVec.toNat_ofNat]; omega)

/-- What each cell reads after the intercept. Where the answer is a key, the two device cells differ. -/
theorem keyboardIntercept_read {answer : InputAnswer} {rest : List InputAnswer} {draws : Nat} {s : State}
    (hw : s.mem.wf = true) (hne : ∀ k, answer = .key k → s.config.kbsrAddr ≠ s.config.kbdrAddr)
    (h : PollAnswer answer rest draws s) (a : Word) : (keyboardIntercept s).mem.read a = cellAfterPoll answer s a := by
  have hp := poll_of_answer h
  have hsr (v : Word) : (s.mem.write s.config.kbsrAddr v).read a = if a = s.config.kbsrAddr then v else s.mem.read a :=
    Memory.read_write hw _ _ _
  cases answer with
  | key k =>
    rw [keyboardIntercept_key hp]
    show ((s.mem.write s.config.kbsrAddr kbsrReady).write s.config.kbdrAddr (zext k)).read a = _
    rw [Memory.read_write (Memory.wf_write hw _ _), hsr, zext_byte_eq_ofNat]
    by_cases has : a = s.config.kbsrAddr
    · simp [cellAfterPoll, statusOf, kbsrReady, has, hne k rfl]
    · simp [cellAfterPoll, has]
  | noKey => rw [keyboardIntercept_noKey hp]; exact hsr _
  | interrupted => rw [keyboardIntercept_interrupted hp]; exact hsr _
  | error => rw [keyboardIntercept_error hp]; exact hsr _

/-- One poll, as the statements name it. -/
theorem polled_keyboardIntercept {answer : InputAnswer} {rest : List InputAnswer} {draws : Nat} {s : State}
    (hw : s.mem.wf = true) (hne : ∀ k, answer = .key k → s.config.kbsrAddr ≠ s.config.kbdrAddr)
    (h : PollAnswer answer rest draws s) : Polled answer rest draws s (keyboardIntercept s) := by
  obtain ⟨hrun, hdiag, hin, hdr⟩ := keyboardIntercept_of_answer h
  exact ⟨keyboardIntercept_read hw hne h, hrun, hdiag, fun r _ => keyboardIntercept_reg s r, keyboardIntercept_cond s,
    keyboardIntercept_pc s, keyboardIntercept_out s, hin, hdr, keyboardIntercept_ir s, keyboardIntercept_phase s,
    keyboardIntercept_config s⟩

/-- After a poll KBSR reads the fresh status. -/
theorem Polled.read_kbsr {answer : InputAnswer} {rest : List InputAnswer} {draws : Nat} {s t : State}
    (h : Polled answer rest draws s t) : t.mem.read s.config.kbsrAddr = statusOf answer :=
  (h.1 _).trans (if_pos rfl)

theorem DeviceCells.keyboardIntercept {s : State} (h : DeviceCells s) : DeviceCells (keyboardIntercept s) :=
  ⟨keyboardIntercept_wf h.1, by rw [keyboardIntercept_config]; exact h.2⟩

/-- A poll in a state with two device cells. -/
theorem DeviceCells.polled {answer : InputAnswer} {rest : List InputAnswer} {draws : Nat} {s : State}
    (h : DeviceCells s) (ha : PollAnswer answer rest draws s) :
    Polled answer rest draws s (Machine.keyboardIntercept s) :=
  polled_keyboardIntercept h.1 (fun _ _ => h.2) ha

/-- Settles O36: away from KBSR a read is plain; at KBSR it polls, and the fresh status is what the cell then reads. -/
theorem onlyKeyboardStatusReadsHaveSideEffects : Obligations.OnlyKeyboardStatusReadsHaveSideEffects := by
  refine ⟨fun a s => memRead_plain, fun answer rest draws s hd ha => ?_, exists_pollAnswer⟩
  rw [memRead_kbsr rfl]
  exact ⟨hd.polled ha, (hd.polled ha).read_kbsr⟩

/-! ### Loads (42_load_store.md R153 to R155) -/

/-- Settles O13: off KBSR no read polls, so each of the three ends in a plain read and a write of DR with flags. -/
theorem loadsWriteTheCellAndItsSign : Obligations.LoadsWriteTheCellAndItsSign := by
  refine ⟨fun dr f s h => ⟨_, exec_ld s dr f, ?_⟩, fun dr b f s h => ⟨_, exec_ldr s dr b f, ?_⟩,
    fun dr f s h h' => ⟨_, exec_ldi s dr f, ?_⟩⟩
  · rw [loadFrom_plain h]; exact wrote_setRegCC rfl
  · rw [loadFrom_plain h]; exact wrote_setRegCC rfl
  · rw [indirect_plain h, loadFrom_plain h']; exact wrote_setRegCC rfl

/-- A load whose data address is KBSR polls and writes the fresh status with its sign. -/
theorem loadFrom_status {answer : InputAnswer} {rest : List InputAnswer} {draws : Nat} {s : State} (d : RegIndex)
    {ea : Word} (hp : Polled answer rest draws s (keyboardIntercept s)) (hea : ea = s.config.kbsrAddr) :
    WroteWithFlags d (statusOf answer) (keyboardIntercept s) (loadFrom d ea s) ∧
      RestSame (keyboardIntercept s) (loadFrom d ea s) := by
  rw [loadFrom_kbsr hea]
  exact wrote_setRegCC (hea ▸ hp.read_kbsr)

/-- Settles O14: each of the three loads ends in a load from KBSR. -/
theorem loadOfKeyboardStatusPolls : Obligations.LoadOfKeyboardStatusPolls := by
  rintro i dr answer rest draws s hd ha (⟨f, rfl, hea⟩ | ⟨b, f, rfl, hea⟩ | ⟨f, rfl, hptr, hea⟩)
  · exact ⟨_, _, exec_ld s dr f, hd.polled ha, loadFrom_status dr (hd.polled ha) hea⟩
  · exact ⟨_, _, exec_ldr s dr b f, hd.polled ha, loadFrom_status dr (hd.polled ha) hea⟩
  · exact ⟨_, _, by rw [exec_ldi, indirect_plain hptr], hd.polled ha, loadFrom_status dr (hd.polled ha) hea⟩

/-- A pointer read at KBSR polls and answers the fresh status. -/
theorem indirect_status {answer : InputAnswer} {rest : List InputAnswer} {draws : Nat} {s : State} {f : BitVec 9}
    (hp : Polled answer rest draws s (keyboardIntercept s)) (hptr : pcRelative f s = s.config.kbsrAddr) :
    indirect f s = (statusOf answer, keyboardIntercept s) := by
  rw [indirect_kbsr hptr, hptr, hp.read_kbsr]

/-- Settles O15: the data read goes to the status as an address, and is itself a load from KBSR where KBSR is there. -/
theorem ldiThroughKeyboardStatusReadsTheStatusAddress :
    Obligations.LdiThroughKeyboardStatusReadsTheStatusAddress := by
  intro dr f answer rest draws s hd ha hptr
  have hcfg : (keyboardIntercept s).config = s.config := keyboardIntercept_config s
  refine ⟨keyboardIntercept s, _, by rw [exec_ldi, indirect_status (hd.polled ha) hptr], hd.polled ha, fun hne => ?_,
    fun heq answer' rest' draws' ha' => ?_⟩
  · rw [loadFrom_plain (by rwa [hcfg])]
    exact wrote_setRegCC rfl
  · have hp' := hd.keyboardIntercept.polled ha'
    exact ⟨_, hp', loadFrom_status dr hp' (by rw [hcfg, heq])⟩

/-! ### Stores (42_load_store.md R157 to R159) -/

theorem stored_write {s : State} (hw : s.mem.wf = true) (a v : Word) : Stored a v s (s.write a v) :=
  ⟨Memory.read_write_same hw a v, fun _ hb => Memory.read_write_other hw (by simpa using hb) v, fun _ _ => rfl, rfl,
    rfl, ⟨rfl, rfl, rfl, rfl⟩, rfl, rfl, rfl, rfl⟩

/-- Settles O16: off KBSR no read polls, and each of the three ends in one plain write. -/
theorem storesWriteOneCellPlainly : Obligations.StoresWriteOneCellPlainly := by
  refine ⟨fun r f s hw => ⟨_, exec_st s r f, stored_write hw _ _⟩,
    fun r b f s hw => ⟨_, exec_str s r b f, stored_write hw _ _⟩, fun r f s hw hptr => ⟨_, exec_sti s r f, ?_⟩⟩
  rw [indirect_plain hptr]
  exact stored_write hw _ _

/-- Settles O17: after the poll of the pointer read the store is plain, at the status as address. -/
theorem stiThroughKeyboardStatusStoresAtTheStatusAddress :
    Obligations.StiThroughKeyboardStatusStoresAtTheStatusAddress := by
  intro r f answer rest draws s hd ha hptr
  refine ⟨keyboardIntercept s, _, exec_sti s r f, hd.polled ha, ?_⟩
  rw [indirect_status (hd.polled ha) hptr]
  exact stored_write (keyboardIntercept_wf hd.1) _ _

/-- A plain load right after a store to its address reads what was stored. -/
theorem loadFrom_write_reg {s : State} (hw : s.mem.wf = true) (d : RegIndex) {a : Word} (v : Word)
    (ha : a ≠ s.config.kbsrAddr) : (loadFrom d a (s.write a v)).reg d = v := by
  rw [loadFrom_plain (s := s.write a v) ha, State.reg_setRegCC, if_pos rfl]
  exact Memory.read_write_same hw a v

/-- Settles O18: the load's address is the store's, because the store leaves PC, the registers and, for STI, the pointer
cell alone. -/
theorem loadReadsBackTheStore : Obligations.LoadReadsBackTheStore := by
  refine ⟨fun r d f s hw h => ⟨_, _, exec_st s r f, exec_ld _ d f, loadFrom_write_reg hw d _ h⟩,
    fun r d b f s hw h => ⟨_, _, exec_str s r b f, exec_ldr _ d b f, loadFrom_write_reg hw d _ h⟩,
    fun r d f s hw hptr h hne => ?_⟩
  have hx : exec (.sti r f) s = .next (s.write (s.mem.read (pcRelative f s)) (s.reg r)) := by
    rw [exec_sti, indirect_plain hptr]
  refine ⟨_, _, hx, exec_ldi _ d f, ?_⟩
  have hcell : (s.mem.write (s.mem.read (pcRelative f s)) (s.reg r)).read (pcRelative f s)
      = s.mem.read (pcRelative f s) := Memory.read_write_other hw (Ne.symm hne) _
  rw [indirect_plain (s := s.write _ _) hptr]
  show (loadFrom d ((s.mem.write (s.mem.read (pcRelative f s)) (s.reg r)).read (pcRelative f s)) _).reg d = _
  rw [hcell]
  exact loadFrom_write_reg hw d _ h

end Sys2Proof.Machine

namespace Sys2Proof.Machine

/-! ### GETC and IN (44_trap.md R211, R214, R226 to R228)

The blocking request is one operation for both routines, from the start or from a waiting phase; its result is stated
once for each answer of the source. -/

/-- What a routine leaves alone wherever it is: PC, memory, the instruction word, the parameters, and every register but
the listed ones. -/
def RoutineFrame (changed : List RegIndex) (s t : State) : Prop :=
  RegsSameBut changed s t ∧ t.pc = s.pc ∧ t.mem = s.mem ∧ t.ir = s.ir ∧ t.config = s.config

/-- A routine that is done after trap entry. -/
theorem routineDone_of_trapEntry {changed : List RegIndex} {s t : State} (h : RoutineFrame changed (trapEntry s) t)
    (h7 : 7 ∉ changed) (hp : t.phase = .loopCheck) : RoutineDone changed s t := by
  obtain ⟨hr, hpc, hm, hir, hc⟩ := h
  refine ⟨fun r hr' => ?_, ?_, hpc.trans (trapEntry_pc s), hm.trans (trapEntry_mem s), hir.trans (trapEntry_ir s),
    hc.trans (trapEntry_config s), hp⟩
  · rw [hr r (by simp_all), regsSameBut_trapEntry s r (by simp_all)]
  · exact (hr 7 h7).trans (trapLink_trapEntry s)

section
variable (echo : Bool) (w : Phase) {s : State} {n : Nat} {rest : List InputAnswer}

/-- A key is stored in R0 with its flags, after its echo. -/
theorem inputRoutine_on_key {k : Byte} (h : s.input = List.replicate n .noKey ++ .key k :: rest) :
    ((inputRoutine echo w s).reg 0).toNat = k.toNat ∧
    SignOf ((inputRoutine echo w s).reg 0) (inputRoutine echo w s).cond ∧
    (inputRoutine echo w s).out = s.out ++ (if echo then [k] else []) ∧ (inputRoutine echo w s).diag = s.diag ∧
    (inputRoutine echo w s).running = s.running ∧ (inputRoutine echo w s).input = rest ∧
    (inputRoutine echo w s).draws = s.draws ∧ (inputRoutine echo w s).phase = .loopCheck ∧
    RoutineFrame [0] s (inputRoutine echo w s) := by
  have hf : firstAnswer s.input = some (.key k, rest) := h ▸ firstAnswer_replicate n rest (by simp)
  refine ⟨(inputRoutine_key_sign hf).1, (inputRoutine_key_sign hf).2, ?_⟩
  rw [inputRoutine_key hf]
  have hregs (u : State) : RegsSameBut [0] u (storeKey k u) := (wroteWithFlags_setRegCC u 0 (zext k)).2.2.1
  cases echo with
  | false =>
    exact ⟨(List.append_nil _).symm, rfl, rfl, rfl, rfl, rfl, hregs (s.setInput rest), rfl, rfl, rfl, rfl⟩
  | true => exact ⟨rfl, rfl, rfl, rfl, rfl, rfl, hregs ((s.setInput rest).emit [k]), rfl, rfl, rfl, rfl⟩

/-- An error is reported, and R0 and COND keep their values. -/
theorem inputRoutine_on_error (h : s.input = List.replicate n .noKey ++ .error :: rest) :
    (inputRoutine echo w s).cond = s.cond ∧ (inputRoutine echo w s).out = s.out ∧
    (inputRoutine echo w s).diag = s.diag ++ [.inputError] ∧ (inputRoutine echo w s).running = s.running ∧
    (inputRoutine echo w s).input = rest ∧ (inputRoutine echo w s).draws = s.draws ∧
    (inputRoutine echo w s).phase = .loopCheck ∧ RoutineFrame [] s (inputRoutine echo w s) := by
  rw [inputRoutine_error (rest := rest) (h ▸ firstAnswer_replicate n rest (by simp))]
  exact ⟨rfl, rfl, rfl, rfl, rfl, rfl, rfl, fun _ _ => rfl, rfl, rfl, rfl, rfl⟩

/-- An interrupt clears RUNNING; of R0 and COND nothing is said. -/
theorem inputRoutine_on_interrupted (h : s.input = List.replicate n .noKey ++ .interrupted :: rest) :
    (inputRoutine echo w s).running = false ∧ (inputRoutine echo w s).out = s.out ∧
    (inputRoutine echo w s).diag = s.diag ∧ (inputRoutine echo w s).input = rest ∧
    (inputRoutine echo w s).phase = .loopCheck ∧ RoutineFrame [0] s (inputRoutine echo w s) := by
  rw [inputRoutine_interrupted (rest := rest) (h ▸ firstAnswer_replicate n rest (by simp)), interruptedRead_eq]
  exact ⟨rfl, rfl, rfl, rfl, rfl, regsSameBut_setReg (s.setInput rest) 0 _, rfl, rfl, rfl, rfl⟩

/-- With nothing but `NoKey`s left the routine stays in its waiting phase. -/
theorem inputRoutine_on_silence (h : s.input = List.replicate n .noKey) :
    inputRoutine echo w s = (s.setInput []).setPhase w :=
  inputRoutine_waits (firstAnswer_none_iff.2 fun _ ha => List.eq_of_mem_replicate (h ▸ ha))

end

section
variable (echo : Bool) (w : Phase) (prompt : List Byte) {s : State} {n : Nat} {rest : List InputAnswer}

/-! #### The request after trap entry and a prompt: GETC with the empty one, IN with its own -/

theorem entered_input {l : List InputAnswer} (h : s.input = l) : ((trapEntry s).emit prompt).input = l :=
  (trapEntry_input s).trans h

theorem entered_on_key {k : Byte} (h : s.input = List.replicate n .noKey ++ .key k :: rest) :
    let t := inputRoutine echo w ((trapEntry s).emit prompt)
    (t.reg 0).toNat = k.toNat ∧ SignOf (t.reg 0) t.cond ∧ t.out = s.out ++ prompt ++ (if echo then [k] else []) ∧
      t.diag = s.diag ∧ t.running = s.running ∧ t.input = rest ∧ t.draws = s.draws ∧ RoutineDone [0] s t := by
  obtain ⟨hk, hs, ho, hd, hr, hi, hdr, hp, hf⟩ := inputRoutine_on_key echo w (entered_input prompt h)
  exact ⟨hk, hs, by simpa using ho, by simpa using hd, by simpa using hr, hi, by simpa using hdr,
    routineDone_of_trapEntry hf (by simp) hp⟩

theorem entered_on_error (h : s.input = List.replicate n .noKey ++ .error :: rest) :
    let t := inputRoutine echo w ((trapEntry s).emit prompt)
    t.reg 0 = s.reg 0 ∧ t.cond = s.cond ∧ t.out = s.out ++ prompt ∧ t.diag = s.diag ++ [.inputError] ∧
      t.running = s.running ∧ t.input = rest ∧ t.draws = s.draws ∧ RoutineDone [] s t := by
  obtain ⟨hc, ho, hd, hr, hi, hdr, hp, hf⟩ := inputRoutine_on_error echo w (entered_input prompt h)
  exact ⟨(hf.1 0 (by simp)).trans (trapEntry_reg_zero s), by simpa using hc, by simpa using ho, by simpa using hd,
    by simpa using hr, hi, by simpa using hdr, routineDone_of_trapEntry hf (by simp) hp⟩

theorem entered_on_interrupted (h : s.input = List.replicate n .noKey ++ .interrupted :: rest) :
    let t := inputRoutine echo w ((trapEntry s).emit prompt)
    t.running = false ∧ t.out = s.out ++ prompt ∧ t.diag = s.diag ∧ t.input = rest ∧ RoutineDone [0] s t := by
  obtain ⟨hr, ho, hd, hi, hp, hf⟩ := inputRoutine_on_interrupted echo w (entered_input prompt h)
  exact ⟨hr, by simpa using ho, by simpa using hd, hi, routineDone_of_trapEntry hf (by simp) hp⟩

theorem entered_on_silence (h : s.input = List.replicate n .noKey) :
    let t := inputRoutine echo w ((trapEntry s).emit prompt)
    t.phase = w ∧ t.input = [] ∧ t.out = s.out ++ prompt ∧ t.diag = s.diag ∧ t.draws = s.draws ∧ t.pc = s.pc ∧
      t.cond = s.cond ∧ t.mem = s.mem ∧ t.running = s.running ∧ t.ir = s.ir ∧ RegsSameBut [7] s t ∧ TrapLink s t := by
  rw [inputRoutine_on_silence echo w (entered_input prompt h)]
  have hregs : RegsSameBut [7] s (trapEntry s) := regsSameBut_trapEntry s
  have hlink : TrapLink s (trapEntry s) := trapLink_trapEntry s
  refine ⟨rfl, rfl, by simp, by simp, by simp, by simp, by simp, by simp, by simp, by simp, hregs, hlink⟩

end

@[simp] theorem State.emit_nil (s : State) : s.emit [] = s := by simp [State.emit]

/-- GETC is the request after trap entry and no prompt. -/
theorem exec_getc_entered (s : State) :
    exec .getc s = .next (inputRoutine false .waitGetc ((trapEntry s).emit [])) := by
  rw [State.emit_nil, exec_getc]
  rfl

/-- Settles O26: GETC is the input routine without an echo, entered with no prompt. -/
theorem getcStoresTheKeyWithoutEcho : Obligations.GetcStoresTheKeyWithoutEcho := fun s _ _ =>
  ⟨fun _ h => ⟨_, exec_getc_entered s, by simpa using entered_on_key false .waitGetc [] h⟩,
    fun h => ⟨_, exec_getc_entered s, by simpa using entered_on_error false .waitGetc [] h⟩,
    fun h => ⟨_, exec_getc_entered s, by simpa using entered_on_interrupted false .waitGetc [] h⟩⟩

/-- Settles O27: IN is the input routine with an echo, entered after the prompt. -/
theorem inEmitsThePromptAndEchoesTheKey : Obligations.InEmitsThePromptAndEchoesTheKey := fun s _ _ =>
  ⟨fun _ h => ⟨_, exec_inp s, entered_on_key true .waitIn s.config.inPrompt h⟩,
    fun h => ⟨_, exec_inp s, entered_on_error true .waitIn s.config.inPrompt h⟩,
    fun h => ⟨_, exec_inp s, entered_on_interrupted true .waitIn s.config.inPrompt h⟩⟩

/-! #### From a waiting phase -/

/-- A step in a waiting phase is the request again, then the iteration's end; only IN echoes. -/
theorem step_waiting {s : State} (hp : s.phase = .waitGetc ∨ s.phase = .waitIn) :
    step s = .next (endIteration (inputRoutine (decide (s.phase = .waitIn)) s.phase s)) := by
  rcases hp with hp | hp
  · rw [step_waitGetc hp, hp]; rfl
  · rw [step_waitIn hp, hp]; rfl

/-- What an iteration's end does after a routine that is done and left memory alone. -/
theorem endIteration_after {changed : List RegIndex} {s u : State} (hf : RoutineFrame changed s u)
    (hp : u.phase = .loopCheck) :
    (endIteration u).phase = .loopCheck ∧ (endIteration u).ir = none ∧ RegsSameBut changed s (endIteration u) ∧
      (endIteration u).pc = s.pc ∧ (endIteration u).mem = (bumpAt .afterExecute s).mem := by
  obtain ⟨hr, hpc, hm, -, hc⟩ := hf
  refine ⟨(endIteration_phase u).trans hp, by rw [endIteration_done hp]; rfl,
    fun r hr' => (endIteration_reg u r).trans (hr r hr'), (endIteration_pc u).trans hpc, ?_⟩
  rw [endIteration_done hp]
  simp only [State.mem_setIr, bumpAt, bumpCounter, hc, hm]
  split <;> simp [hm]

/-- Settles O28: on silence the routine waits; the step that wakes it is the same request, then the iteration's end. -/
theorem blockingReadWaitsForTheSource : Obligations.BlockingReadWaitsForTheSource := by
  refine ⟨fun s n h => ⟨_, exec_getc_entered s, by simpa using entered_on_silence false .waitGetc [] h⟩,
    fun s n h => ⟨_, exec_inp s, entered_on_silence true .waitIn s.config.inPrompt h⟩, fun s n hp h => ?_,
    fun s n rest hp => ⟨fun k h => ?_, fun h => ?_, fun h => ?_⟩⟩
  · rw [step_waiting hp, inputRoutine_on_silence _ _ h, endIteration_inside (by rcases hp with hp | hp <;> simp [hp])]
    rfl
  · obtain ⟨hk, hs, ho, hd, hr, hi, hdr, hph, hf⟩ := inputRoutine_on_key (decide (s.phase = .waitIn)) s.phase h
    obtain ⟨hphase, hir, hregs, hpc, hmem⟩ := endIteration_after hf hph
    exact ⟨_, step_waiting hp, hphase, hir, by simpa using hk, by simpa using hs, hregs, hpc, by simpa using hi,
      by simpa using hdr, by simpa using ho, by simpa using hd, by simpa using hr, hmem⟩
  · obtain ⟨hc, ho, hd, hr, hi, hdr, hph, hf⟩ := inputRoutine_on_error (decide (s.phase = .waitIn)) s.phase h
    obtain ⟨hphase, hir, hregs, hpc, hmem⟩ := endIteration_after hf hph
    exact ⟨_, step_waiting hp, hphase, hir, hregs, by simpa using hc, hpc, by simpa using hi, by simpa using hdr,
      by simpa using ho, by simpa using hd, by simpa using hr, hmem⟩
  · obtain ⟨hr, ho, hd, hi, hph, hf⟩ := inputRoutine_on_interrupted (decide (s.phase = .waitIn)) s.phase h
    obtain ⟨hphase, hir, hregs, hpc, hmem⟩ := endIteration_after hf hph
    exact ⟨_, step_waiting hp, hphase, hir, hregs, hpc, by simpa using hi, by simpa using ho, by simpa using hd,
      by simpa using hr, hmem, step_returns hphase (by simpa using hr)⟩

end Sys2Proof.Machine

namespace Sys2Proof.Machine

/-! ### COND is read by BR alone (10_state.md R28)

A read path or a routine does the same whatever COND is, so a change of COND before it is a change of COND after it, or
is overwritten. -/

section
variable (s : State) (c : Cond)

theorem poll_setCond : poll (s.setCond c) = ((poll s).1, (poll s).2.setCond c) := by
  cases h : s.input with
  | nil => rw [poll_nil h, poll_nil (s := s.setCond c) h]; rfl
  | cons answer rest => rw [poll_cons h, poll_cons (s := s.setCond c) h]; rfl

theorem keyboardIntercept_setCond : keyboardIntercept (s.setCond c) = (keyboardIntercept s).setCond c := by
  obtain ⟨answer, rest, draws, h⟩ := exists_pollAnswer s
  have hp := poll_of_answer h
  have hp' : poll (s.setCond c) = (answer, (s.answered rest draws).setCond c) := by rw [poll_setCond, hp]
  cases answer with
  | key k => rw [keyboardIntercept_key hp, keyboardIntercept_key hp']; rfl
  | noKey => rw [keyboardIntercept_noKey hp, keyboardIntercept_noKey hp']; rfl
  | interrupted => rw [keyboardIntercept_interrupted hp, keyboardIntercept_interrupted hp']; rfl
  | error => rw [keyboardIntercept_error hp, keyboardIntercept_error hp']; rfl

theorem memRead_setCond (a : Word) : memRead a (s.setCond c) = ((memRead a s).1, (memRead a s).2.setCond c) := by
  by_cases ha : a = s.config.kbsrAddr
  · rw [memRead_kbsr ha, memRead_kbsr (s := s.setCond c) ha, keyboardIntercept_setCond]; rfl
  · rw [memRead_plain ha, memRead_plain (s := s.setCond c) ha]; rfl

theorem strRead_setCond (a : Word) : strRead a (s.setCond c) = ((strRead a s).1, (strRead a s).2.setCond c) := by
  cases hi : s.config.stringReadsIntercepted with
  | false => rw [strRead_raw hi, strRead_raw (s := s.setCond c) hi]; rfl
  | true => simpa [strRead, hi] using memRead_setCond s c a

/-- A load writes COND, so what it was is lost. -/
theorem loadFrom_setCond (d : RegIndex) (a : Word) : loadFrom d a (s.setCond c) = loadFrom d a s := by
  simp only [loadFrom, memRead_setCond]
  rfl

theorem trapEntry_setCond : trapEntry (s.setCond c) = (trapEntry s).setCond c := by
  cases h : s.config.trapWritesR7 with
  | false => simp [trapEntry, h]
  | true => simp only [trapEntry, h, State.config_setCond, if_pos]; rfl

theorem stringLoop_setCond (bytes : Config → Word → List Byte) (resume : Word → Phase) (cells : Nat) (a : Word) :
    stringLoop bytes resume cells a (s.setCond c) = (stringLoop bytes resume cells a s).setCond c := by
  induction cells generalizing a s with
  | zero => rfl
  | succ cells ih =>
    have hr := strRead_setCond s c a
    by_cases hz : (strRead a s).1 = 0#16
    · rw [stringLoop_stop hz, stringLoop_stop (by rw [hr]; exact hz), hr]; rfl
    · rw [stringLoop_next hz, stringLoop_next (by rw [hr]; exact hz), hr]; exact ih ((strRead a s).2.emit _) _

/-- A blocking request keeps COND or overwrites it. -/
theorem inputRoutine_setCond (echo : Bool) (w : Phase) :
    SameButCond (inputRoutine echo w s) (inputRoutine echo w (s.setCond c)) := by
  cases hf : firstAnswer s.input with
  | none => rw [inputRoutine_waits hf, inputRoutine_waits (s := s.setCond c) hf]; rfl
  | some found =>
    obtain ⟨answer, rest⟩ := found
    cases answer with
    | key k =>
      rw [inputRoutine_key hf, inputRoutine_key (s := s.setCond c) hf]
      cases echo <;> rfl
    | noKey => exact absurd rfl (firstAnswer_some hf).1
    | interrupted => rw [inputRoutine_interrupted hf, inputRoutine_interrupted (s := s.setCond c) hf]; rfl
    | error => rw [inputRoutine_error hf, inputRoutine_error (s := s.setCond c) hf]; rfl

end

/-- Every handler but BR's leads from states that differ in COND alone to such states. -/
theorem exec_setCond {i : Instr} (hbr : ∀ n z p f, i ≠ .br n z p f) (s : State) (c : Cond) :
    ∃ t t', exec i s = .next t ∧ exec i (s.setCond c) = .next t' ∧ SameButCond t t' := by
  cases i with
  | br n z p f => exact absurd rfl (hbr n z p f)
  | addReg d a b => exact ⟨_, _, exec_addReg s d a b, exec_addReg _ d a b, rfl⟩
  | addImm d a f => exact ⟨_, _, exec_addImm s d a f, exec_addImm _ d a f, rfl⟩
  | ld d f => exact ⟨_, _, exec_ld s d f, exec_ld _ d f, by rw [loadFrom_setCond]; rfl⟩
  | st r f => exact ⟨_, _, exec_st s r f, exec_st _ r f, rfl⟩
  | jsr f => exact ⟨_, _, exec_jsr s f, exec_jsr _ f, rfl⟩
  | jsrr b => exact ⟨_, _, exec_jsrr s b, exec_jsrr _ b, rfl⟩
  | andReg d a b => exact ⟨_, _, exec_andReg s d a b, exec_andReg _ d a b, rfl⟩
  | andImm d a f => exact ⟨_, _, exec_andImm s d a f, exec_andImm _ d a f, rfl⟩
  | ldr d b f => exact ⟨_, _, exec_ldr s d b f, exec_ldr _ d b f, by rw [loadFrom_setCond]; rfl⟩
  | str r b f => exact ⟨_, _, exec_str s r b f, exec_str _ r b f, rfl⟩
  | rti => exact ⟨_, _, exec_rti s, exec_rti _, rfl⟩
  | not d a => exact ⟨_, _, exec_not s d a, exec_not _ d a, rfl⟩
  | ldi d f =>
    refine ⟨_, _, exec_ldi s d f, exec_ldi _ d f, ?_⟩
    have hr : indirect f (s.setCond c) = ((indirect f s).1, (indirect f s).2.setCond c) := memRead_setCond s c _
    rw [hr, loadFrom_setCond]
    rfl
  | sti r f =>
    refine ⟨_, _, exec_sti s r f, exec_sti _ r f, ?_⟩
    have hr : indirect f (s.setCond c) = ((indirect f s).1, (indirect f s).2.setCond c) := memRead_setCond s c _
    rw [hr]
    rfl
  | jmp b => exact ⟨_, _, exec_jmp s b, exec_jmp _ b, rfl⟩
  | res => exact ⟨_, _, exec_res s, exec_res _, rfl⟩
  | lea d f => exact ⟨_, _, exec_lea s d f, exec_lea _ d f, rfl⟩
  | trap code => exact ⟨_, _, exec_trap s code, exec_trap _ code, by rw [trapEntry_setCond]; rfl⟩
  | getc =>
    refine ⟨_, _, exec_getc s, exec_getc _, ?_⟩
    rw [trapEntry_setCond]
    exact inputRoutine_setCond _ c _ _
  | out => exact ⟨_, _, exec_out s, exec_out _, by rw [trapEntry_setCond]; rfl⟩
  | puts =>
    refine ⟨_, _, exec_puts s, exec_puts _, ?_⟩
    rw [trapEntry_setCond, putsLoop, putsLoop, State.reg_setCond, stringLoop_setCond]
    rfl
  | inp =>
    refine ⟨_, _, exec_inp s, exec_inp _, ?_⟩
    rw [trapEntry_setCond]
    exact inputRoutine_setCond ((trapEntry s).emit s.config.inPrompt) c _ _
  | putsp =>
    refine ⟨_, _, exec_putsp s, exec_putsp _, ?_⟩
    rw [trapEntry_setCond, putspLoop, putspLoop, State.reg_setCond, stringLoop_setCond]
    rfl
  | halt => exact ⟨_, _, exec_halt s, exec_halt _, by rw [trapEntry_setCond]; rfl⟩

/-- Settles O7: setting COND before an instruction other than BR changes at most COND after it. -/
theorem onlyBranchesReadTheFlags : Obligations.OnlyBranchesReadTheFlags := by
  intro i s c t t' hbr ht ht'
  obtain ⟨u, u', hu, hu', h⟩ := exec_setCond hbr s c
  obtain rfl := next_unique hu ht
  obtain rfl := next_unique hu' ht'
  exact h

/-- Settles O57: OUT is one of the fields no step reads. -/
theorem outputIsNeverReadBack : Obligations.OutputIsNeverReadBack := by
  intro s o t t' ht ht'
  obtain ⟨u, u', hu, hu', h⟩ := (sameBut_withOut s o).step rfl
  obtain rfl := next_unique hu ht
  obtain rfl := next_unique hu' ht'
  exact h

end Sys2Proof.Machine

namespace Sys2Proof.Machine

/-! ### Strings (44_trap.md R213, R215, R217)

One lemma runs the loop over plainly read cells to its end, at a zero cell or after the last cell of the lap; a string
over KBSR is such a run up to the poll and another from there on. -/

theorem cell_succ (a : Word) (j : Nat) : a + 1#16 + BitVec.ofNat 16 j = a + BitVec.ofNat 16 (j + 1) := by
  rw [BitVec.add_assoc, Nat.add_comm j 1, BitVec.ofNat_add]

theorem State.emit_emit (s : State) (b c : List Byte) : (s.emit b).emit c = s.emit (b ++ c) := by simp [State.emit]

/-- A whole lap leads back to the first cell. -/
theorem cell_lap (a : Word) : a + BitVec.ofNat 16 65536 = a := by
  rw [show BitVec.ofNat 16 65536 = 0#16 by decide, BitVec.add_zero]

/-- Two cells of one lap are different addresses. -/
theorem cell_ne {a : Word} {j k : Nat} (hj : j < 65536) (hk : k < 65536) (h : j ≠ k) :
    a + BitVec.ofNat 16 j ≠ a + BitVec.ofNat 16 k := by
  intro heq
  have hmod := congrArg BitVec.toNat (BitVec.add_right_inj a |>.1 heq)
  rw [BitVec.toNat_ofNat, BitVec.toNat_ofNat] at hmod
  omega

section
variable {bytes : Config → Word → List Byte} {resume : Word → Phase}

/-- The loop over `m` cells that are not 0x0000, read without a poll: it ends at the next cell if that reads 0x0000, and
stays inside if there is none left in the lap. -/
theorem stringLoop_to_end {m cells : Nat} {a : Word} {s : State} (hm : m ≤ cells)
    (hplain : s.config.stringReadsIntercepted = true → ∀ j ≤ m, j < cells → a + BitVec.ofNat 16 j ≠ s.config.kbsrAddr)
    (hnz : ∀ j < m, s.mem.read (a + BitVec.ofNat 16 j) ≠ 0#16)
    (hend : m < cells → s.mem.read (a + BitVec.ofNat 16 m) = 0#16) :
    stringLoop bytes resume cells a s =
      (s.emit ((List.range m).flatMap fun j => bytes s.config (s.mem.read (a + BitVec.ofNat 16 j)))).setPhase
        (if m = cells then resume (a + BitVec.ofNat 16 m) else .loopCheck) := by
  have hseg := stringLoop_segment (bytes := bytes) (resume := resume) (cells - m)
    (fun hi j hj => hplain hi j (by omega) (by omega)) hnz
  rw [Nat.add_sub_cancel' hm] at hseg
  rw [hseg]
  by_cases hmc : m = cells
  · rw [if_pos hmc, hmc, Nat.sub_self, stringLoop_zero]
  · have hread (b : List Byte) : strRead (a + BitVec.ofNat 16 m) (s.emit b) =
        (s.mem.read (a + BitVec.ofNat 16 m), s.emit b) := by
      cases hi : s.config.stringReadsIntercepted with
      | false => exact strRead_raw (s := s.emit b) hi
      | true => exact strRead_plain (s := s.emit b) (hplain hi m (le_refl m) (by omega))
    obtain ⟨c, hc⟩ : ∃ c, cells - m = c + 1 := ⟨cells - m - 1, by omega⟩
    rw [if_neg hmc, hc, stringLoop_stop (by rw [hread]; exact hend (by omega)), hread]

end

/-- A string routine over a string that a zero cell ends. -/
theorem stringLoop_terminated {bytes : Config → Word → List Byte} {resume : Word → Phase} {n : Nat} {s : State}
    (hn : n < 65536) (hnz : ∀ k < n, s.mem.read (s.reg 0 + BitVec.ofNat 16 k) ≠ 0#16)
    (hz : s.mem.read (s.reg 0 + BitVec.ofNat 16 n) = 0#16)
    (hplain : s.config.stringReadsIntercepted = true → ∀ k ≤ n, s.reg 0 + BitVec.ofNat 16 k ≠ s.config.kbsrAddr) :
    stringLoop bytes resume stringLap (s.reg 0) (trapEntry s) = ((trapEntry s).emit ((List.range n).flatMap fun k =>
      bytes s.config (s.mem.read (s.reg 0 + BitVec.ofNat 16 k)))).setPhase .loopCheck := by
  have h := stringLoop_to_end (bytes := bytes) (resume := resume) (s := trapEntry s) (a := s.reg 0)
    (cells := stringLap) (m := n) (Nat.le_of_lt hn) (by simpa using fun hi j hj _ => hplain hi j hj)
    (by simpa using hnz) (by simpa using fun _ => hz)
  rwa [if_neg (show n ≠ stringLap from Nat.ne_of_lt hn), trapEntry_config, trapEntry_mem] at h

/-- What a string routine leaves alone when it has emitted its string. -/
theorem string_done (s : State) (b : List Byte) :
    let t := ((trapEntry s).emit b).setPhase .loopCheck
    t.out = s.out ++ b ∧ t.cond = s.cond ∧ t.diag = s.diag ∧ t.input = s.input ∧ t.draws = s.draws ∧
      t.running = s.running ∧ RoutineDone [] s t :=
  ⟨by simp, by simp, by simp, by simp, by simp, by simp, regsSameBut_trapEntry s, trapLink_trapEntry s, by simp,
    by simp, by simp, by simp, rfl⟩

/-- A cell that the table does not list gives its low byte. -/
theorem putsCharFrom_unlisted {w : Word} {table : List (Word × List Byte)} (h : ∀ e ∈ table, e.1 ≠ w) :
    putsCharFrom w table = [BitVec.ofNat 8 (w.toNat % 256)] := by
  induction table with
  | nil => rw [putsCharFrom, lowByte_eq_ofNat]
  | cons e rest ih =>
    rw [putsCharFrom, if_neg (h e List.mem_cons_self), ih fun e' he' => h e' (List.mem_cons_of_mem e he')]

/-- A cell that the table lists gives the bytes of its first entry. -/
theorem putsCharFrom_first {w : Word} {bytes : List Byte} {before after : List (Word × List Byte)}
    (h : ∀ e ∈ before, e.1 ≠ w) : putsCharFrom w (before ++ (w, bytes) :: after) = bytes := by
  induction before with
  | nil => exact if_pos rfl
  | cons e rest ih =>
    rw [List.cons_append, putsCharFrom, if_neg (h e List.mem_cons_self),
      ih fun e' he' => h e' (List.mem_cons_of_mem e he')]

/-- Settles O31: the loop emits the string up to its end; a cell's bytes are the first entry for it, or its low
byte. -/
theorem putsEmitsTheStringAtR0 : Obligations.PutsEmitsTheStringAtR0 := by
  refine ⟨fun s n hn hnz hz hplain => ⟨_, (exec_puts s).trans ?_, string_done s _⟩,
    fun c w h => putsCharFrom_unlisted h, fun c w bytes before after ht h => ?_⟩
  · exact congrArg _ (stringLoop_terminated hn hnz hz hplain)
  · rw [putsBytes, ht, putsCharFrom_first h]

theorem highByte_eq_ofNat (v : Word) : highByte v = BitVec.ofNat 8 (v.toNat / 256) := by
  rw [highByte, BitVec.extractLsb', Nat.shiftRight_eq_div_pow]

/-- PUTSP's bytes of a cell are the document's, by the cell's number. -/
theorem putspBytes_eq_packed (c : Config) (w : Word) : putspBytes c w = packedBytes w := by
  have hhigh : highByte w = 0#8 ↔ w.toNat / 256 = 0 := by
    rw [highByte_eq_ofNat, ← BitVec.toNat_inj, BitVec.toNat_ofNat, BitVec.toNat_ofNat]
    omega
  rw [putspBytes, packedBytes, ← lowByte_eq_ofNat, ← highByte_eq_ofNat]
  by_cases h : highByte w = 0#8
  · rw [if_pos h, if_pos (hhigh.1 h)]
  · rw [if_neg h, if_neg (fun h' => h (hhigh.2 h'))]

/-- Settles O32: the same loop, with a cell's packed bytes. -/
theorem putspEmitsThePackedStringAtR0 : Obligations.PutspEmitsThePackedStringAtR0 := by
  intro s n hn hnz hz hplain
  refine ⟨_, (exec_putsp s).trans (congrArg _ (stringLoop_terminated hn hnz hz hplain)), ?_⟩
  simp only [putspBytes_eq_packed]
  exact string_done s _

/-- A lap over raw cells of which none reads 0x0000 emits them and ends inside, at the pointer where it began. -/
theorem stringLoop_whole_lap {bytes : Config → Word → List Byte} {resume : Word → Phase} {s : State} (a : Word)
    (hraw : s.config.stringReadsIntercepted = false) (hnz : ∀ a, s.mem.read a ≠ 0#16) :
    ∃ b, stringLoop bytes resume stringLap a s = (s.emit b).setPhase (resume a) := by
  have h := stringLoop_to_end (bytes := bytes) (resume := resume) (a := a) (s := s) (m := stringLap)
    (cells := stringLap) (Nat.le_refl _) (fun hi => absurd hi (by simp [hraw])) (fun j _ => hnz _)
    (fun h => absurd h (Nat.lt_irrefl _))
  rw [if_pos rfl, show a + BitVec.ofNat 16 stringLap = a from cell_lap a] at h
  exact ⟨_, h⟩

/-- Settles O33: from the start and from inside, a lap ends inside at its own pointer. -/
theorem unterminatedStringNeverEnds : Obligations.UnterminatedStringNeverEnds := by
  intro s hraw hnz
  have hstart (bytes : Config → Word → List Byte) (resume : Word → Phase) :
      ∃ b, stringLoop bytes resume stringLap (s.reg 0) (trapEntry s) =
        ((trapEntry s).emit b).setPhase (resume (s.reg 0)) :=
    stringLoop_whole_lap _ (by simpa using hraw) (by simpa using hnz)
  refine ⟨?_, ?_, fun a hp => ?_, fun a hp => ?_⟩
  · obtain ⟨b, hb⟩ := hstart putsBytes .inPuts
    exact ⟨_, (exec_puts s).trans (congrArg _ hb), rfl, by simp, by simp, by simp, by simp⟩
  · obtain ⟨b, hb⟩ := hstart putspBytes .inPutsp
    exact ⟨_, (exec_putsp s).trans (congrArg _ hb), rfl, by simp, by simp, by simp, by simp⟩
  · obtain ⟨b, hb⟩ := stringLoop_whole_lap (bytes := putsBytes) (resume := .inPuts) a hraw hnz
    refine ⟨(s.emit b).setPhase (.inPuts a), ?_, rfl, rfl, rfl, rfl, rfl⟩
    rw [step_inPuts hp, putsLoop, hb, endIteration_inside (by simp)]
  · obtain ⟨b, hb⟩ := stringLoop_whole_lap (bytes := putspBytes) (resume := .inPutsp) a hraw hnz
    refine ⟨(s.emit b).setPhase (.inPutsp a), ?_, rfl, rfl, rfl, rfl, rfl⟩
    rw [step_inPutsp hp, putspLoop, hb, endIteration_inside (by simp)]

/-! #### A string over KBSR (20_memory.md R52; D12, D17) -/

theorem cell_add (a : Word) (k j : Nat) : a + BitVec.ofNat 16 k + BitVec.ofNat 16 j = a + BitVec.ofNat 16 (k + j) := by
  rw [BitVec.add_assoc, BitVec.ofNat_add]

/-- An intercepted string read at KBSR polls and answers the fresh status. -/
theorem strRead_status {answer : InputAnswer} {rest : List InputAnswer} {draws : Nat} {s : State} {a : Word}
    (hi : s.config.stringReadsIntercepted = true) (ha : a = s.config.kbsrAddr)
    (hp : Polled answer rest draws s (keyboardIntercept s)) : strRead a s = (statusOf answer, keyboardIntercept s) := by
  rw [strRead, if_pos hi, memRead_kbsr ha, ha, hp.read_kbsr]

section
variable {bytes : Config → Word → List Byte} {resume : Word → Phase} {a : Word} {k n : Nat} {answer : InputAnswer}
  {rest : List InputAnswer} {draws : Nat} {s : State}

/-- From the cell at KBSR on, whose address is cell `k` of the lap: the poll, and what it left. -/
theorem stringLoop_from_status (hi : s.config.stringReadsIntercepted = true)
    (hp : Polled answer rest draws s (keyboardIntercept s)) (hs : StringOverStatus a k n answer s) :
    stringLoop bytes resume (65535 - k + 1) (a + BitVec.ofNat 16 k) s =
      ((keyboardIntercept s).emit ((List.range (n - k)).flatMap fun j =>
        bytes s.config (cellAfterPoll answer s (a + BitVec.ofNat 16 (k + j))))).setPhase
          (if n = 65536 then resume a else .loopCheck) := by
  obtain ⟨hkn, hk, hn, hkbsr, -, hafter, hend⟩ := hs
  have hread := strRead_status hi hkbsr hp
  have hstatus : cellAfterPoll answer s (a + BitVec.ofNat 16 k) = statusOf answer := if_pos hkbsr
  obtain rfl | hlt := Nat.eq_or_lt_of_le hkn
  · rw [stringLoop_stop (by rw [hread]; exact hstatus ▸ hend hk), hread, if_neg (by omega), Nat.sub_self,
      List.range_zero, List.flatMap_nil, State.emit_nil]
  · obtain ⟨m, rfl⟩ : ∃ m, n = k + (m + 1) := ⟨n - k - 1, by omega⟩
    have hcell (j : Nat) : a + BitVec.ofNat 16 k + 1#16 + BitVec.ofNat 16 j = a + BitVec.ofNat 16 (k + (j + 1)) := by
      rw [cell_succ, cell_add]
    have hplain (j : Nat) (hj : j < 65535 - k) : a + BitVec.ofNat 16 (k + (j + 1)) ≠ s.config.kbsrAddr :=
      hkbsr ▸ cell_ne (by omega) hk (by omega)
    have hmem (j : Nat) : (keyboardIntercept s).mem.read (a + BitVec.ofNat 16 (k + (j + 1))) =
        cellAfterPoll answer s (a + BitVec.ofNat 16 (k + (j + 1))) := hp.1 _
    rw [stringLoop_next (by rw [hread]; exact hstatus ▸ hafter k (le_refl k) hlt), hread,
      stringLoop_to_end (m := m) (by omega)]
    · simp only [hcell, State.mem_emit, State.config_emit, keyboardIntercept_config, hmem, State.emit_emit,
        Nat.add_sub_cancel_left, List.range_succ_eq_map, List.flatMap_cons, List.flatMap_map, Nat.add_zero, hstatus]
      congr 1
      by_cases hlap : k + (m + 1) = 65536
      · rw [if_pos hlap, if_pos (by omega), hlap, cell_lap]
      · rw [if_neg hlap, if_neg (by omega)]
    · intro _ j hj hj'
      simp only [hcell, State.config_emit, keyboardIntercept_config]
      exact hplain j hj'
    · intro j hj
      simp only [hcell, State.mem_emit, hmem]
      exact hafter _ (by omega) (by omega)
    · intro hm
      simp only [hcell, State.mem_emit, hmem]
      exact hend (by omega)

/-- The cells before KBSR are read plainly; the one at KBSR is polled and answers the fresh status, and those behind it
are read plainly over what the poll left. -/
theorem stringPolled_of_stringLoop (hw : s.mem.wf = true)
    (hne : ∀ k, answer = .key k → s.config.kbsrAddr ≠ s.config.kbdrAddr)
    (hi : s.config.stringReadsIntercepted = true) (ha : PollAnswer answer rest draws s)
    (hs : StringOverStatus a k n answer s) :
    RegsSameBut [] s (stringLoop bytes resume stringLap a s) ∧
      StringPolled (bytes s.config) (resume a) a k n answer rest draws s (stringLoop bytes resume stringLap a s) := by
  obtain ⟨-, hk, -, hkbsr, hbefore, -⟩ := id hs
  have hseg := stringLoop_segment (bytes := bytes) (resume := resume) (65535 - k + 1)
    (fun _ j hj => hkbsr ▸ cell_ne (by omega) hk (by omega)) hbefore
  have hlap : k + (65535 - k + 1) = stringLap := by simp only [stringLap, memCells]; omega
  rw [hlap] at hseg
  rw [hseg]
  generalize hb : (List.range k).flatMap (fun j => bytes s.config (s.mem.read (a + BitVec.ofNat 16 j))) = before
  have hp := polled_keyboardIntercept (s := s.emit before) hw hne ha
  rw [stringLoop_from_status (s := s.emit before) hi hp hs]
  obtain ⟨hmem, hrun, hdiag, hregs, hcond, hpc, hout, hin, hdraws, hir, -, hcfg⟩ := hp
  subst hb
  exact ⟨hregs, congrArg (· ++ _) hout, hmem, hrun, hdiag, hin, hdraws, hcond, hpc, hir, hcfg, rfl⟩

end

/-- Such a string after trap entry, which leaves alone all that the string reads. -/
theorem stringPolled_of_trapEntry {bytes : Config → Word → List Byte} {resume : Word → Phase} {k n : Nat}
    {answer : InputAnswer} {rest : List InputAnswer} {draws : Nat} {s : State} (hw : s.mem.wf = true)
    (hne : ∀ k, answer = .key k → s.config.kbsrAddr ≠ s.config.kbdrAddr)
    (hi : s.config.stringReadsIntercepted = true) (ha : PollAnswer answer rest draws s)
    (hs : StringOverStatus (s.reg 0) k n answer s) :
    let t := stringLoop bytes resume stringLap (s.reg 0) (trapEntry s)
    RegsSameBut [7] s t ∧ TrapLink s t ∧
      StringPolled (bytes s.config) (resume (s.reg 0)) (s.reg 0) k n answer rest draws s t := by
  have hcell : cellAfterPoll answer (trapEntry s) = cellAfterPoll answer s := by
    funext a
    simp [cellAfterPoll]
  have h := stringPolled_of_stringLoop (bytes := bytes) (resume := resume) (s := trapEntry s) (a := s.reg 0) (k := k)
    (n := n) (answer := answer) (rest := rest) (draws := draws) (by simpa using hw) (by simpa using hne)
    (by simpa using hi) (by simpa [PollAnswer] using ha) (by simpa [StringOverStatus, hcell] using hs)
  obtain ⟨hregs, hpolled⟩ := h
  refine ⟨fun r hr => ?_, ?_, by simpa [StringPolled, hcell] using hpolled⟩
  · rw [hregs r (by simp), regsSameBut_trapEntry s r hr]
  · exact (hregs 7 (by simp)).trans (trapLink_trapEntry s)

/-- The end of an iteration after a string routine: none while the routine is inside its loop. -/
theorem endIteration_of_string {inside : Phase} {n : Nat} {t : State} (hin : inside ≠ .loopCheck)
    (hp : t.phase = if n = 65536 then inside else .loopCheck) :
    endIteration t = if n = 65536 then t else (bumpAt .afterExecute t).setIr none := by
  by_cases hn : n = 65536
  · rw [if_pos hn] at hp ⊢; exact endIteration_inside (hp ▸ hin)
  · rw [if_neg hn] at hp ⊢; exact endIteration_done hp

/-- Settles O34: the two routines, from their start and from inside, run the one loop. -/
theorem interceptedStringReadPolls : Obligations.InterceptedStringReadPolls := by
  intro answer rest draws k n a s hd hi ha hs
  have hpacked : putspBytes s.config = packedBytes := funext (putspBytes_eq_packed s.config)
  have hphase {bytes : Word → List Byte} {inside : Phase} {t : State}
      (h : StringPolled bytes inside a k n answer rest draws s t) :
      t.phase = if n = 65536 then inside else .loopCheck := by
    obtain ⟨-, -, -, -, -, -, -, -, -, -, hp⟩ := h
    exact hp
  refine ⟨fun h0 => ?_, fun h0 => ?_, fun hp => ?_, fun hp => ?_⟩
  · subst h0
    exact ⟨_, exec_puts s, stringPolled_of_trapEntry hd.1 (fun _ _ => hd.2) hi ha hs⟩
  · subst h0
    rw [← hpacked]
    exact ⟨_, exec_putsp s, stringPolled_of_trapEntry hd.1 (fun _ _ => hd.2) hi ha hs⟩
  · have h := stringPolled_of_stringLoop (bytes := putsBytes) (resume := .inPuts) hd.1 (fun _ _ => hd.2) hi ha hs
    exact ⟨_, h.1, h.2, (step_inPuts hp).trans (congrArg _ (endIteration_of_string (by simp) (hphase h.2)))⟩
  · have h := stringPolled_of_stringLoop (bytes := putspBytes) (resume := .inPutsp) hd.1 (fun _ _ => hd.2) hi ha hs
    rw [← hpacked]
    exact ⟨_, h.1, h.2, (step_inPutsp hp).trans (congrArg _ (endIteration_of_string (by simp) (hphase h.2)))⟩

end Sys2Proof.Machine

namespace Sys2Proof.Machine

/-! ### The iteration (40_dispatcher.md R110 to R116) -/

theorem endIteration_eq (s : State) :
    endIteration s = if s.phase = .loopCheck then (bumpAt .afterExecute s).setIr none else s := rfl

/-- Settles O40: the step's equation at a fetch that does not poll; a bump elsewhere leaves the state as it is. -/
theorem stepRunsTheDecodedInstruction : Obligations.StepRunsTheDecodedInstruction := by
  refine fun s hl hpc => ⟨fun t ht => step_handlerStart hl hpc ht, handlerStart_pc s, rfl, bumpAt_reg .beforeFetch s,
    bumpAt_cond .beforeFetch s, fun h => bumpAt_off ?_, fun h t hc => bumpAt_off ?_⟩
  · exact h.symm.imp_right fun hp => by simp [hp]
  · rw [hc]
    exact h.symm.imp_right fun hp => by simp [hp]

/-- Settles O43: the handler keeps memory canonical and the parameters, so the bump at the iteration's end is one of the
counter cell of `s`. -/
theorem counterIsBumpedOncePerIteration : Obligations.CounterIsBumpedOncePerIteration := by
  intro s u hl hw hp hx hu
  obtain ⟨hcan, hcfg⟩ := canonicalUnder_of_exec_fetch hw hx
  refine ⟨_, step_afterExecute hl hp hx, fun he => ⟨?_, fun a ha => ?_⟩, fun he => ?_⟩
  · have hread := bumpAt_read_counter (here := .afterExecute) hcan (hcfg ▸ he) (hcfg ▸ hp)
    rw [hcfg] at hread
    rw [endIteration_done hu, State.mem_setIr, hread, BitVec.toNat_add]
    rfl
  · rw [endIteration_done hu]
    exact bumpAt_read_other hcan (by simpa [hcfg] using ha)
  · rw [endIteration_done hu, bumpAt_off (.inl (hcfg ▸ he))]
    rfl

/-- Settles O44: the state after the bump is where the iteration fetches and executes, and the bump after the execution
stands elsewhere. -/
theorem counterBumpedBeforeFetchIsFetched : Obligations.CounterBumpedBeforeFetchIsFetched := by
  intro s hl hw he hp
  have hread := bumpAt_read_counter (here := .beforeFetch) hw he hp
  obtain ⟨t, ht⟩ := exec_exists_next (decode (fetch (bumpAt .beforeFetch s)).1) (fetch (bumpAt .beforeFetch s)).2
  refine ⟨bumpAt .beforeFetch s, ?_, fun a ha => bumpAt_read_other hw (by simpa using ha), ?_, fun hc hk => ?_, t, ht,
    ?_⟩
  · rw [bumpAt_eq_setMem]; rfl
  · rw [hread, BitVec.toNat_add]; rfl
  · rw [fetch_plain (by simpa using hk), bumpAt_pc, hc, hread]
  · have hcfg := (canonicalUnder_of_exec_fetch (bumpAt_wf hw) ht).config
    rw [bumpAt_config] at hcfg
    rw [step_iterate hl.1 hl.2, iterate_next ht, endIteration_eq, bumpAt_off (.inr (by simp [hcfg, hp]))]

/-- Settles O47, by induction on the number of steps. -/
theorem endedCoreStaysEnded : Obligations.EndedCoreStaysEnded := by
  intro s k hp
  induction k with
  | zero => rfl
  | succ k ih => rw [run_succ k (step_ended hp), ih]

/-! #### A store into the next cell -/

/-- Settles O48: the store and the bump after it lie in different cells, so the next fetch reads what was stored. -/
theorem fetchSeesTheEarlierStore : Obligations.FetchSeesTheEarlierStore := by
  intro s sr hl hw hk hk1 hc1 hp hdec
  have hoff : bumpAt .beforeFetch s = s := bumpAt_off (.inr (by simp [hp]))
  have hstep := step_handlerStart hl hk (by rw [hoff, hdec]; exact exec_st _ sr 0#9)
  have hea : pcRelative 0#9 (handlerStart s) = s.pc + 1#16 := by
    rw [pcRelative, handlerStart_pc, show sext 0#9 = 0#16 by decide, BitVec.add_zero]
  rw [hea] at hstep
  have hreg : (handlerStart s).reg sr = s.reg sr := bumpAt_reg .beforeFetch s sr
  have hw' : (handlerStart s).mem.wf = true := bumpAt_wf (here := .beforeFetch) hw
  have hcfg' : (handlerStart s).config = s.config := bumpAt_config .beforeFetch s
  obtain ⟨hcell, -, -, -, hpc, -, hrun, -, hphase, hcfg⟩ := stored_write hw' (s.pc + 1#16) ((handlerStart s).reg sr)
  have hwu : ((handlerStart s).write (s.pc + 1#16) ((handlerStart s).reg sr)).mem.wf = true := Memory.wf_write hw' _ _
  generalize (handlerStart s).write (s.pc + 1#16) ((handlerStart s).reg sr) = u at *
  have hloop : AtLoop (endIteration u) :=
    ⟨(endIteration_phase u).trans (hphase.trans ((bumpAt_phase .beforeFetch s).trans hl.1)),
      (endIteration_running u).trans (hrun.trans ((bumpAt_running .beforeFetch s).trans hl.2))⟩
  have hpc' : (endIteration u).pc = s.pc + 1#16 := (endIteration_pc u).trans (hpc.trans (handlerStart_pc s))
  have hcfgt : (endIteration u).config = s.config := (endIteration_config u).trans (hcfg.trans hcfg')
  have hread : (endIteration u).mem.read (s.pc + 1#16) = s.reg sr := by
    rw [endIteration_done (hloop.1 ▸ (endIteration_phase u).symm)]
    exact (bumpAt_read_other hwu (by rw [hcfg, hcfg']; exact hc1)).trans (hcell.trans hreg)
  have hfetch : (fetch (endIteration u)).1 = s.reg sr := by
    rw [fetch_plain (by rw [hpc', hcfgt]; exact hk1), hpc', hread]
  refine ⟨_, hstep, hloop, hpc', hfetch, ?_⟩
  rw [step_iterate hloop.1 hloop.2, iterate, bumpAt_off (.inr (by rw [hcfgt, hp]; simp)), hfetch]

/-! #### Placing a word -/

theorem withFetchWord_eq (s : State) (w : Word) : s.withFetchWord 16 w.toNat = placeWord s w := by
  rw [State.withFetchWord, Nat.mod_eq_of_lt w.isLt, BitVec.ofNat_toNat, BitVec.setWidth_eq]

/-- A word is never placed at KBSR. -/
theorem placeAt_ne_kbsr (s : State) : placeAt s ≠ s.config.kbsrAddr := by
  unfold placeAt
  split
  · next h => rw [h]; bv_omega
  · assumption

/-- Once the bump before the fetch, where there is one, has happened, the cell holds the word. -/
theorem placed_read {s : State} (w : Word) (hw : s.mem.wf = true) :
    (bumpAt .beforeFetch (placeWord s w)).mem.read (placeAt s) = w := by
  have hw' : (placeWord s w).mem.wf = true := Memory.wf_write hw _ _
  have hcell : (placeWord s w).mem.read (placeAt s) = placeValue s w := Memory.read_write_same hw _ _
  by_cases hon : s.config.cycleCounterEnabled = true ∧ s.config.cycleCounterPhase = .beforeFetch
  · obtain ⟨he, hp⟩ := hon
    by_cases hc : placeAt s = s.config.cycleCounterAddr
    · have hread : (bumpAt .beforeFetch (placeWord s w)).mem.read s.config.cycleCounterAddr =
          (placeWord s w).mem.read s.config.cycleCounterAddr + 1#16 := bumpAt_read_counter hw' he hp
      rw [hc, hread, ← hc, hcell, placeValue, if_pos (by simp [he, hp, hc]), BitVec.sub_add_cancel]
    · rw [bumpAt_read_other hw' hc, hcell, placeValue, if_neg (by simp [hc])]
  · have hoff : (placeWord s w).config.cycleCounterEnabled = false ∨
        (placeWord s w).config.cycleCounterPhase ≠ .beforeFetch := by
      have hcfg : (placeWord s w).config = s.config := rfl
      rw [hcfg]
      by_cases he : s.config.cycleCounterEnabled = true
      · exact .inr fun hp => hon ⟨he, hp⟩
      · exact .inl (by simpa using he)
    rw [bumpAt_off hoff, hcell, placeValue, if_neg (by simp_all)]

/-- Settles O49: the word stands where PC is put, off KBSR, and the bump before the fetch, if any, is made up for. -/
theorem placedWordIsTheNextInstruction : Obligations.PlacedWordIsTheNextInstruction := by
  intro s w hw p
  have hp : p = placeWord s w := withFetchWord_eq s w
  rw [hp]
  have hpc : (placeWord s w).pc = placeAt s := rfl
  have hx := placed_read w hw
  refine ⟨?_, handlerStart_pc _, fun _ => rfl, rfl, fun a ha => ?_, fun h => if_neg h⟩
  · show iterate (placeWord s w) = _
    rw [iterate, fetch_bumped (placeAt_ne_kbsr s), hpc, hx]
  · rw [hpc] at ha
    exact Memory.read_write_other hw (by simpa using ha) _

/-! ### Reset and the start of a run (70_reset_and_hazards.md) -/

/-- A state before the run with no instruction word and RUNNING false. -/
theorem inv_beforeRun {s : State} (hw : s.mem.wf = true) (hir : s.ir = none) (hp : s.phase = .beforeRun)
    (hr : s.running = false) : Inv s := ⟨hw, by simp [hir, hp, Phase.between], fun _ => hr⟩

/-- Settles O51: each of these states is before the run, over a canonical memory. -/
theorem resetMeetsTheInvariant : Obligations.ResetMeetsTheInvariant :=
  ⟨inv_beforeRun Memory.wf_nil rfl rfl rfl, fun _ => inv_beforeRun Memory.wf_nil rfl rfl rfl,
    fun _ _ _ h => inv_beforeRun h rfl rfl rfl⟩

/-- Settles O58: the reset state's fields, and reads of the empty memory and register file. -/
theorem resetLeavesTheStatedState : Obligations.ResetLeavesTheStatedState :=
  fun c => ⟨State.reg_resetWith c, rfl, rfl, rfl, Memory.read_nil, rfl, rfl, rfl, rfl, rfl⟩

/-! #### The loader's result (20_memory.md R56) -/

theorem highByte_append_lowByte (w : Word) : highByte w ++ lowByte w = w := by
  apply BitVec.eq_of_toNat_eq
  rw [highByte_eq_ofNat, lowByte_eq_ofNat, toNat_append_eq, BitVec.toNat_ofNat, BitVec.toNat_ofNat]
  omega

/-- Big-endian bytes of words are read back as those words. -/
theorem wordsOf_bigEndian (ws : List Word) : wordsOf (ws.flatMap fun w => [highByte w, lowByte w]) = some ws := by
  induction ws with
  | nil => rfl
  | cons w ws ih =>
    simp only [List.flatMap_cons, List.cons_append, List.nil_append, wordsOf, ih, Option.map_some,
      highByte_append_lowByte]

theorem storeWords_wf {m : Memory} (h : m.wf = true) (a : Word) (ws : List Word) : (storeWords m a ws).wf = true := by
  induction ws generalizing m a with
  | nil => exact h
  | cons w ws ih => exact ih (Memory.wf_write h a w) _

/-- Words stored from `a` on, within the addresses, stand at their places; every other cell reads as before. -/
theorem storeWords_read {m : Memory} (h : m.wf = true) {a : Word} {ws : List Word}
    (hlen : a.toNat + ws.length ≤ 65536) :
    (∀ i (hi : i < ws.length), (storeWords m a ws).read (a + BitVec.ofNat 16 i) = ws[i]) ∧
    ∀ b : Word, b.toNat < a.toNat ∨ a.toNat + ws.length ≤ b.toNat → (storeWords m a ws).read b = m.read b := by
  induction ws generalizing m a with
  | nil => exact ⟨fun i hi => absurd hi (Nat.not_lt_zero i), fun _ _ => rfl⟩
  | cons w ws ih =>
    rw [List.length_cons] at hlen
    have hrest : (∀ i (hi : i < ws.length), (storeWords m a (w :: ws)).read (a + 1#16 + BitVec.ofNat 16 i) = ws[i]) ∧
        ∀ b : Word, b.toNat < a.toNat + 1 ∨ a.toNat + 1 + ws.length ≤ b.toNat →
          (storeWords m a (w :: ws)).read b = (m.write a w).read b := by
      cases ws with
      | nil => exact ⟨fun i hi => absurd hi (Nat.not_lt_zero i), fun _ _ => rfl⟩
      | cons w' ws =>
        rw [List.length_cons] at hlen
        have ha : (a + 1#16).toNat = a.toNat + 1 := by rw [BitVec.toNat_add, BitVec.toNat_ofNat]; omega
        have hih := ih (Memory.wf_write h a w) (a := a + 1#16) (by rw [ha, List.length_cons]; omega)
        rw [ha] at hih
        exact hih
    refine ⟨fun i hi => ?_, fun b hb => ?_⟩
    · cases i with
      | zero =>
        rw [show a + BitVec.ofNat 16 0 = a from BitVec.add_zero a, hrest.2 a (.inl (Nat.lt_succ_self _))]
        exact Memory.read_write_same h a w
      | succ i => rw [← cell_succ]; exact hrest.1 i (Nat.lt_of_succ_lt_succ hi)
    · rw [List.length_cons] at hb
      rw [hrest.2 b (by omega), Memory.read_write_other h (by rintro rfl; omega)]

/-- Settles O59: the loader reads the bytes back as the words and stores them in order over the empty memory. -/
theorem imageFillsItsCellsAndNoOther : Obligations.ImageFillsItsCellsAndNoOther := by
  intro o ws c l hlen
  obtain ⟨hin, hout⟩ := storeWords_read Memory.wf_nil hlen
  refine ⟨State.start c (storeWords [] o ws) l, ?_, storeWords_wf Memory.wf_nil o ws, hin, hout, rfl,
    State.reg_resetWith c, rfl, rfl, rfl⟩
  rw [State.load, initialMemory, parseImage, wordsOf_bigEndian]
  exact congrArg _ (if_pos hlen)

end Sys2Proof.Machine

namespace Sys2Proof.Machine

/-! ### Fetch at KBSR (40_dispatcher.md R112)

The status is 0x8000, which is RTI, or 0x0000, which is a BR that asks for no condition. -/

theorem exec_status (answer : InputAnswer) (s : State) : exec (decode (statusOf answer)) s =
    .next (s.withDiag (s.diag ++ if statusOf answer = 0x8000#16 then [.reservedOpcode 0x8#4] else [])) := by
  have hrti : decode 0x8000#16 = .rti := by decide
  have hbr : decode 0x0000#16 = .br false false false 0#9 := by decide
  have hsame : s.withDiag (s.diag ++ []) = s := by simp [State.withDiag]
  cases answer with
  | key k => exact hrti ▸ exec_rti s
  | noKey | interrupted | error => exact (hbr ▸ exec_br s false false false 0#9).trans (congrArg _ hsame.symm)

/-- The state that the bump before the fetch and the poll lead to, at the end of the fetched handler. -/
def afterStatus (answer : InputAnswer) (s : State) : State :=
  let v := keyboardIntercept (bumpAt .beforeFetch s)
  ((v.setIr (some (statusOf answer))).setPc (s.pc + 1#16)).withDiag
    (v.diag ++ if statusOf answer = 0x8000#16 then [.reservedOpcode 0x8#4] else [])

section
variable {answer : InputAnswer} {rest : List InputAnswer} {draws : Nat} {s : State}

theorem pollAnswer_bumpAt (here : CounterPhase) (h : PollAnswer answer rest draws s) :
    PollAnswer answer rest draws (bumpAt here s) := by
  simpa [PollAnswer] using h

/-- A step with PC at KBSR executes the fresh status. -/
theorem step_at_kbsr (hl : AtLoop s) (hpc : s.pc = s.config.kbsrAddr)
    (hp : Polled answer rest draws (bumpAt .beforeFetch s) (keyboardIntercept (bumpAt .beforeFetch s))) :
    step s = .next (endIteration (afterStatus answer s)) := by
  have hkbsr : (bumpAt .beforeFetch s).pc = (bumpAt .beforeFetch s).config.kbsrAddr := by simpa using hpc
  rw [step_iterate hl.1 hl.2]
  refine iterate_next ?_
  rw [fetch_eq, memRead_kbsr hkbsr, hkbsr, hp.read_kbsr, exec_status, ← hkbsr, bumpAt_pc]
  rfl

/-- A cell that the bump does not touch reads after the poll as it would without the bump. -/
theorem cellAfterPoll_bumpAt (here : CounterPhase) (hw : s.mem.wf = true) {a : Word}
    (ha : a ≠ s.config.cycleCounterAddr) : cellAfterPoll answer (bumpAt here s) a = cellAfterPoll answer s a := by
  cases answer <;> simp [cellAfterPoll, bumpAt_read_other hw ha]

/-- The counter cell, bumped before the poll: where the poll writes it, the count is lost. -/
theorem cellAfterPoll_bumped_counter (hw : s.mem.wf = true) (he : s.config.cycleCounterEnabled = true)
    (hp : s.config.cycleCounterPhase = .beforeFetch) :
    cellAfterPoll answer (bumpAt .beforeFetch s) s.config.cycleCounterAddr =
      if s.config.cycleCounterAddr = s.config.kbsrAddr ∨
          (s.config.cycleCounterAddr = s.config.kbdrAddr ∧ statusOf answer = 0x8000#16)
      then cellAfterPoll answer s s.config.cycleCounterAddr else s.mem.read s.config.cycleCounterAddr + 1#16 := by
  have hread := bumpAt_read_counter (here := .beforeFetch) hw he hp
  by_cases hs : s.config.cycleCounterAddr = s.config.kbsrAddr
  · simp [cellAfterPoll, hs]
  · cases answer with
    | key k =>
      by_cases hd : s.config.cycleCounterAddr = s.config.kbdrAddr
      · simp [cellAfterPoll, statusOf, hd]
      · simp [cellAfterPoll, hs, hd, hread]
    | noKey | interrupted | error => simp [cellAfterPoll, statusOf, hs, hread]

end

section
variable {answer : InputAnswer} {rest : List InputAnswer} {draws : Nat} {s : State}

/-- What the handler of the fetched status ends with, memory aside. -/
theorem afterStatus_of_polled (hl : AtLoop s)
    (hp : Polled answer rest draws (bumpAt .beforeFetch s) (keyboardIntercept (bumpAt .beforeFetch s))) :
    let u := afterStatus answer s
    u.diag = s.diag ++ reportsOf answer ++ (if statusOf answer = 0x8000#16 then [.reservedOpcode 0x8#4] else []) ∧
      u.running = decide (answer ≠ .interrupted) ∧ u.pc = s.pc + 1#16 ∧ RegsSameBut [] s u ∧ u.cond = s.cond ∧
      u.out = s.out ∧ u.input = rest ∧ u.draws = draws ∧ u.phase = .loopCheck ∧ u.config = s.config := by
  obtain ⟨-, hrun, hdiag, hregs, hcond, -, hout, hin, hdraws, -, hphase, hcfg⟩ := hp
  refine ⟨congrArg (· ++ _) (hdiag.trans (congrArg (· ++ _) (bumpAt_diag _ s))), hrun.trans ?_, rfl,
    fun r hr => (hregs r hr).trans (bumpAt_reg _ s r), hcond.trans (bumpAt_cond _ s), hout.trans (bumpAt_out _ s), hin,
    hdraws, hphase.trans ((bumpAt_phase _ s).trans hl.1), hcfg.trans (bumpAt_config _ s)⟩
  by_cases hint : answer = .interrupted <;> simp [hint, hl.2]

end

/-- Settles O41: the status is fetched and executed; the counter's bump lies before the poll or after the execution. -/
theorem fetchOfKeyboardStatusExecutesTheStatus : Obligations.FetchOfKeyboardStatusExecutesTheStatus := by
  intro answer rest draws s hl hd hpc ha
  have hp := DeviceCells.polled ⟨bumpAt_wf (here := .beforeFetch) hd.1, by rw [bumpAt_config]; exact hd.2⟩
    (pollAnswer_bumpAt .beforeFetch ha)
  obtain ⟨hdiag, hrun, hpc', hregs, hcond, hout, hin, hdraws, hphase, hcfg⟩ := afterStatus_of_polled hl hp
  have hcell (a : Word) : (afterStatus answer s).mem.read a = cellAfterPoll answer (bumpAt .beforeFetch s) a := hp.1 a
  have hw : (afterStatus answer s).mem.wf = true := keyboardIntercept_wf (bumpAt_wf hd.1)
  have hmem : (endIteration (afterStatus answer s)).mem = (bumpAt .afterExecute (afterStatus answer s)).mem := by
    rw [endIteration_done hphase]; rfl
  refine ⟨_, step_at_kbsr hl hpc hp, (endIteration_diag _).trans hdiag, (endIteration_running _).trans hrun,
    (endIteration_pc _).trans hpc', fun r hr => (endIteration_reg _ r).trans (hregs r hr),
    (endIteration_cond _).trans hcond, (endIteration_out _).trans hout, (endIteration_input _).trans hin,
    (endIteration_draws _).trans hdraws, (endIteration_phase _).trans hphase, by rw [endIteration_done hphase]; rfl,
    (endIteration_config _).trans hcfg, fun a hne => ?_, fun he hph => ?_, fun he hph => ?_, fun hoff a => ?_⟩
  · rw [hmem, bumpAt_read_other hw (by rwa [hcfg]), hcell, cellAfterPoll_bumpAt _ hd.1 hne]
  · have hread := bumpAt_read_counter (here := .afterExecute) hw (by rwa [hcfg]) (by rwa [hcfg])
    rw [hcfg] at hread
    rw [hmem, hread, hcell, bumpAt_off (.inr (by simp [hph]))]
  · rw [hmem, bumpAt_off (.inr (by simp [hcfg, hph])), hcell, cellAfterPoll_bumped_counter hd.1 he hph]
  · rw [hmem, bumpAt_off (.inl (by rwa [hcfg])), hcell, bumpAt_off (.inl hoff)]

end Sys2Proof.Machine

namespace Sys2Proof.Machine

/-! ### Clearing RUNNING within an iteration (40_dispatcher.md R120)

What each kind of read does when its answer is `Interrupted`: RUNNING is cleared, and the instruction goes on. -/

section
variable {rest : List InputAnswer} {draws : Nat} {s : State}

/-- An `Interrupted` answer writes KBSR alone, so canonical memory is all its poll needs. -/
theorem polled_interrupted (hw : s.mem.wf = true) (ha : PollAnswer .interrupted rest draws s) :
    Polled .interrupted rest draws s (keyboardIntercept s) := polled_keyboardIntercept hw (by simp) ha

theorem Polled.stopped {t : State} (h : Polled .interrupted rest draws s t) :
    t.running = false ∧ t.phase = s.phase ∧ t.pc = s.pc := by
  obtain ⟨-, hrun, -, -, -, hpc, -, -, -, -, hphase, -⟩ := h
  exact ⟨hrun, hphase, hpc⟩

/-- A load never sets RUNNING, and leaves the phase and PC alone. -/
theorem loadFrom_stopped (d : RegIndex) (a : Word) (h : s.running = false) :
    (loadFrom d a s).running = false ∧ (loadFrom d a s).phase = s.phase ∧ (loadFrom d a s).pc = s.pc := by
  refine ⟨?_, memRead_phase s a, memRead_pc s a⟩
  show (memRead a s).2.running = false
  by_cases ha : a = s.config.kbsrAddr
  · obtain ⟨answer, rest, draws, hans⟩ := exists_pollAnswer s
    rw [memRead_kbsr ha]
    exact (keyboardIntercept_of_answer hans).1.trans (by simp [h])
  · rw [memRead_plain ha]; exact h

/-- A load whose data address is KBSR gets the cleared status. -/
theorem loadFrom_interrupted (d : RegIndex) {a : Word} (hp : Polled .interrupted rest draws s (keyboardIntercept s))
    (ha : a = s.config.kbsrAddr) :
    (loadFrom d a s).running = false ∧ (loadFrom d a s).phase = s.phase ∧ (loadFrom d a s).pc = s.pc ∧
      (loadFrom d a s).reg d = 0#16 ∧ (loadFrom d a s).cond = .z := by
  obtain ⟨⟨hreg, hsign, -, hpc⟩, -, -, hrun, -, hphase, -⟩ := loadFrom_status d hp ha
  obtain ⟨hr, hph, hpc'⟩ := hp.stopped
  exact ⟨hrun.trans hr, hphase.trans hph, hpc.trans hpc', hreg, hsign.1 rfl⟩

/-- LDI whose pointer cell is KBSR loads from 0x0000, plainly unless KBSR is there. -/
theorem exec_ldi_interrupted (d : RegIndex) {f : BitVec 9} (hp : Polled .interrupted rest draws s (keyboardIntercept s))
    (hptr : pcRelative f s = s.config.kbsrAddr) :
    ∃ u, exec (.ldi d f) s = .next u ∧ u.running = false ∧ u.phase = s.phase ∧ u.pc = s.pc ∧
      (s.config.kbsrAddr ≠ 0#16 → u.reg d = s.mem.read 0#16 ∧ SignOf (u.reg d) u.cond) := by
  obtain ⟨hr, hph, hpc⟩ := hp.stopped
  obtain ⟨hrun, hphase, hpc'⟩ := loadFrom_stopped d 0#16 hr
  refine ⟨loadFrom d 0#16 (keyboardIntercept s), by rw [exec_ldi, indirect_status hp hptr]; rfl, hrun, hphase.trans hph,
    hpc'.trans hpc, fun h0 => ?_⟩
  rw [loadFrom_plain (by rw [keyboardIntercept_config]; exact h0.symm)]
  exact ⟨by simpa [cellAfterPoll, h0.symm] using hp.1 0#16, signOf_setRegCC _ d _⟩

/-- STI whose pointer cell is KBSR stores at 0x0000. -/
theorem exec_sti_interrupted (r : RegIndex) {f : BitVec 9} (hw : s.mem.wf = true)
    (hp : Polled .interrupted rest draws s (keyboardIntercept s)) (hptr : pcRelative f s = s.config.kbsrAddr) :
    ∃ u, exec (.sti r f) s = .next u ∧ u.running = false ∧ u.phase = s.phase ∧ u.pc = s.pc ∧
      u.mem.read 0#16 = s.reg r := by
  obtain ⟨hr, hph, hpc⟩ := hp.stopped
  exact ⟨(keyboardIntercept s).write 0#16 (s.reg r), by rw [exec_sti, indirect_status hp hptr]; rfl, hr, hph, hpc,
    Memory.read_write_same (keyboardIntercept_wf hw) _ _⟩

/-- A string that reaches KBSR ends there. -/
theorem stringLoop_interrupted (bytes : Config → Word → List Byte) (resume : Word → Phase) {k : Nat}
    (hw : s.mem.wf = true) (ha : PollAnswer .interrupted rest draws s) (hi : s.config.stringReadsIntercepted = true)
    (hk : k < 65536) (hkbsr : s.reg 0 + BitVec.ofNat 16 k = s.config.kbsrAddr)
    (hnz : ∀ j < k, s.mem.read (s.reg 0 + BitVec.ofNat 16 j) ≠ 0#16) :
    let u := stringLoop bytes resume stringLap (s.reg 0) (trapEntry s)
    u.running = false ∧ u.phase = .loopCheck ∧ u.pc = s.pc := by
  have hs : StringOverStatus (s.reg 0) k k .interrupted s :=
    ⟨le_refl k, hk, by omega, hkbsr, hnz, fun j hkj hjk => by omega, fun _ => if_pos hkbsr⟩
  obtain ⟨-, -, -, -, hrun, -, -, -, -, hpc, -, -, hphase⟩ :=
    stringPolled_of_trapEntry (bytes := bytes) (resume := resume) hw (by simp) hi ha hs
  exact ⟨hrun, hphase.trans (if_neg (by omega)), hpc⟩

end

/-- Settles O46: HALT and each request point by the lemma on its interrupt, then the iteration's end and the return. -/
theorem clearingRunningCompletesTheIteration : Obligations.ClearingRunningCompletesTheIteration := by
  refine ⟨fun s u hl hpc hx hph hrun => ?_, fun s => ⟨_, exec_halt s, rfl, trapEntry_phase s⟩,
    fun i s rest hin hi => ?_, fun s rest hp hin => ?_, fun i s rest draws hw hph ha hi => ?_,
    fun s rest draws hl hw hpc ha => ?_⟩
  · have hphase := (endIteration_phase u).trans hph
    have hrunning := (endIteration_running u).trans hrun
    exact ⟨_, step_handlerStart hl hpc hx, hrunning, hphase, endIteration_pc u, endIteration_reg u,
      by rw [endIteration_done hph]; rfl, step_returns hphase hrunning⟩
  · have hclear (echo : Bool) (w : Phase) (prompt : List Byte) :=
      entered_on_interrupted (s := s) (n := 0) (rest := rest) echo w prompt hin
    rcases hi with rfl | rfl
    · obtain ⟨hrun, hout, -, -, -, -, hpc, -, -, -, hphase⟩ := hclear false .waitGetc []
      exact ⟨_, exec_getc_entered s, hrun, hphase, hpc, hout⟩
    · obtain ⟨hrun, hout, -, -, -, -, hpc, -, -, -, hphase⟩ := hclear true .waitIn s.config.inPrompt
      exact ⟨_, exec_inp s, hrun, hphase, hpc, hout⟩
  · obtain ⟨hrun, hout, -, -, hph, hf⟩ :=
      inputRoutine_on_interrupted (n := 0) (rest := rest) (decide (s.phase = .waitIn)) s.phase hin
    obtain ⟨hphase, -, -, hpc, hmem⟩ := endIteration_after hf hph
    have hrunning := (endIteration_running _).trans hrun
    exact ⟨_, step_waiting hp, hrunning, hphase, hpc, (endIteration_out _).trans hout, hmem,
      step_returns hphase hrunning⟩
  · have hp := polled_interrupted hw ha
    rcases hi with ⟨d, f, rfl, hea⟩ | ⟨d, b, f, rfl, hea⟩ | ⟨d, f, rfl, hptr⟩ | ⟨r, f, rfl, hptr⟩ |
      ⟨hi, hint, k, hk, hkbsr, hnz⟩
    · obtain ⟨hrun, hphase, hpc, hload⟩ := loadFrom_interrupted d hp hea
      refine ⟨_, exec_ld s d f, hrun, hphase.trans hph, hpc, ?ld, ?_, ?_, ?_, ?_⟩
      case ld => rintro _ _ ⟨⟩; exact hload
      all_goals intros; contradiction
    · obtain ⟨hrun, hphase, hpc, hload⟩ := loadFrom_interrupted d hp hea
      refine ⟨_, exec_ldr s d b f, hrun, hphase.trans hph, hpc, ?_, ?ldr, ?_, ?_, ?_⟩
      case ldr => rintro _ _ _ ⟨⟩; exact hload
      all_goals intros; contradiction
    · by_cases hk : pcRelative f s = s.config.kbsrAddr
      · obtain ⟨u, hx, hrun, hphase, hpc, hload⟩ := exec_ldi_interrupted d hp hk
        refine ⟨u, hx, hrun, hphase.trans hph, hpc, ?_, ?_, ?data, ?pointer, ?_⟩
        case data => rintro _ _ ⟨⟩ hne; exact absurd hk hne
        case pointer => rintro _ _ ⟨⟩ -; exact hload
        all_goals intros; contradiction
      · obtain ⟨hrun, hphase, hpc, hload⟩ := loadFrom_interrupted d hp (hptr.resolve_left hk)
        refine ⟨_, by rw [exec_ldi, indirect_plain hk], hrun, hphase.trans hph, hpc, ?_, ?_, ?data, ?pointer, ?_⟩
        case data => rintro _ _ ⟨⟩ -; exact hload
        case pointer => rintro _ _ ⟨⟩ h; exact absurd h hk
        all_goals intros; contradiction
    · obtain ⟨u, hx, hrun, hphase, hpc, hstore⟩ := exec_sti_interrupted r hw hp hptr
      refine ⟨u, hx, hrun, hphase.trans hph, hpc, ?_, ?_, ?_, ?_, ?sti⟩
      case sti => rintro _ _ ⟨⟩; exact hstore
      all_goals intros; contradiction
    · have hstr (bytes : Config → Word → List Byte) (resume : Word → Phase) :=
        stringLoop_interrupted bytes resume hw ha hint hk hkbsr hnz
      rcases hi with rfl | rfl
      · obtain ⟨hrun, hphase, hpc⟩ := hstr putsBytes .inPuts
        refine ⟨_, exec_puts s, hrun, hphase, hpc, ?_, ?_, ?_, ?_, ?_⟩ <;> intros <;> contradiction
      · obtain ⟨hrun, hphase, hpc⟩ := hstr putspBytes .inPutsp
        refine ⟨_, exec_putsp s, hrun, hphase, hpc, ?_, ?_, ?_, ?_, ?_⟩ <;> intros <;> contradiction
  · have hp := polled_interrupted (bumpAt_wf (here := .beforeFetch) hw) (pollAnswer_bumpAt .beforeFetch ha)
    obtain ⟨-, hrun, hpc', -, -, -, -, -, hphase, -⟩ := afterStatus_of_polled hl hp
    have hphase := (endIteration_phase _).trans hphase
    have hrunning := (endIteration_running _).trans hrun
    exact ⟨_, step_at_kbsr hl hpc hp, hrunning, hphase, (endIteration_pc _).trans hpc', step_returns hphase hrunning⟩

end Sys2Proof.Machine
